-- ==== Sys2Proof/Word.lean ====
section
/-! DEFINITION. The value types of 00_scope.md R13: bytes, words, bus addresses. -/

namespace Sys2Proof

/-- A byte: 8 bits, unsigned (00_scope.md R13). -/
abbrev Byte := BitVec 8

/-- A word: 16 bits, unsigned (00_scope.md R13). -/
abbrev Word := BitVec 16

/-- A device address on the two-wire bus: 7 bits (10_state.md R22). -/
abbrev BusAddr := BitVec 7

end Sys2Proof
end

