-- ==== Sys2Proof/Machine/Opcodes.lean ====
section
/-! DEFINITION. The sensor opcodes of 30_encoding.md Table R89 and the block's `OPSEL` codes (R87). -/

namespace Sys2Proof.Machine

/-- `OPSEL` of CSUM (30_encoding.md R87). -/
def opselCsum : Byte := 0
/-- `OPSEL` of FRAME (30_encoding.md R87). -/
def opselFrame : Byte := 1
/-- `OPSEL` of VALID (30_encoding.md R87). -/
def opselValid : Byte := 2
/-- `OPSEL` of EXEC (30_encoding.md R87). -/
def opselExec : Byte := 3

/-- 44_catalog.md R211. -/
def opSaveConfig : Word := 0x3615
/-- 44_catalog.md R212. -/
def opGetId : Word := 0x3682
/-- 44_catalog.md R213. -/
def opExecSelfTest : Word := 0x3639
/-- 44_catalog.md R214. -/
def opReinit : Word := 0x3646
/-- 44_catalog.md R215. -/
def opSetTemperatureOffset : Word := 0x241D
/-- 44_catalog.md R216. -/
def opGetTemperatureOffset : Word := 0x2318
/-- 44_catalog.md R217. -/
def opSetAltitude : Word := 0x2427
/-- 44_catalog.md R218. -/
def opGetAltitude : Word := 0x2322
/-- 44_catalog.md R219. -/
def opSetAmbientPressure : Word := 0xE000
/-- 44_catalog.md R220, low power. -/
def opStartLowPower : Word := 0x21AC
/-- 44_catalog.md R220, normal. -/
def opStartNormal : Word := 0x21B1
/-- 44_catalog.md R221. -/
def opStop : Word := 0x3F86
/-- 44_catalog.md R222. -/
def opIsDataReady : Word := 0xE4B8

end Sys2Proof.Machine
end

