-- ==== Sys2Proof/Machine/Bytes.lean ====
section
/-! DEFINITION. Byte order and the buffer accesses: `ser16`, `des16`, `MemRead`, `MemWrite`
(41_serialize.md R140, 42_validate.md R160, 00_scope.md R16, 20_memory.md R53). -/

namespace Sys2Proof.Machine

/-- The big-endian word serialiser (41_serialize.md R140, format `W16` of 30_encoding.md R81). -/
def ser16 (w : Word) : List Byte := [w.extractLsb' 8 8, w.extractLsb' 0 8]

/-- The big-endian word deserialiser; `b0` was received first (42_validate.md R160). -/
def des16 (b0 b1 : Byte) : Word := b0 ++ b1

/-- `MemRead(a, 1)` on a buffer (20_memory.md R53); no value outside it (log 25). -/
def memReadByte (buf : List Byte) (a : Nat) : Option Byte := buf[a]?

/-- `MemRead(a, 2)` on a buffer, most significant byte first (20_memory.md R53); no value outside it (log 25). -/
def memReadWord (buf : List Byte) (a : Nat) : Option Word :=
  match buf[a]?, buf[a + 1]? with
  | some b0, some b1 => some (des16 b0 b1)
  | _, _ => none

/-- `MemWrite(a, 1, v)`: replaces a byte, or extends the buffer by one at its end (00_scope.md R16). A write
that would leave a gap has no value (log 25). -/
def memWriteByte (buf : List Byte) (a : Nat) (v : Byte) : Option (List Byte) :=
  if a < buf.length then some (buf.set a v)
  else if a = buf.length then some (buf ++ [v])
  else none

/-- `MemWrite(a, 2, v)`: `v[15:8]` at `a`, `v[7:0]` at `a + 1` (20_memory.md R53). -/
def memWriteWord (buf : List Byte) (a : Nat) (v : Word) : Option (List Byte) :=
  match memWriteByte buf a (v.extractLsb' 8 8) with
  | some buf' => memWriteByte buf' (a + 1) (v.extractLsb' 0 8)
  | none => none

end Sys2Proof.Machine
end

