-- ==== Sys2Proof/Machine/Crc.lean ====
section
/-! DEFINITION. The checksum: CRC-8, polynomial 0x31, initial value 0xFF, most significant bit first, no
reflection, no final exclusive-or (40_checksum.md R111 to R116). The bit order, the absence of reflection and
the absence of a final exclusive-or are the spec's own decisions from general knowledge (log 7). -/

namespace Sys2Proof.Machine

/-- The generator without its x^8 term (40_checksum.md R111). -/
def crcPoly : Byte := 0x31

/-- The initial value (40_checksum.md R112). -/
def crcInit : Byte := 0xFF

/-- One shift round (the loop body of 40_checksum.md R115). -/
def crcRound (t : Byte) : Byte := if t.msb then (t <<< 1) ^^^ crcPoly else t <<< 1

/-- The byte step: exclusive-or the byte in, then eight rounds (40_checksum.md R115). -/
def crc8Byte (a b : Byte) : Byte :=
  crcRound (crcRound (crcRound (crcRound (crcRound (crcRound (crcRound (crcRound (a ^^^ b))))))))

/-- `crc8`: bytes in sequence order, starting from 0xFF (40_checksum.md R116). -/
def crc8 (s : List Byte) : Byte := s.foldl crc8Byte crcInit

/-- The bit step of the serial shift register (40_checksum.md R114). -/
def crc8Bit (a : Byte) (d : Bool) : Byte :=
  if xor a.msb d then (a <<< 1) ^^^ crcPoly else a <<< 1

/-- Eight bit steps, the input bits taken from bit 7 down to bit 0 (40_checksum.md R120). -/
def crc8Serial (a b : Byte) : Byte :=
  [b[7], b[6], b[5], b[4], b[3], b[2], b[1], b[0]].foldl crc8Bit a

/-- The table entry `T[x]` (40_checksum.md R121). -/
def crcTable (x : Byte) : Byte := crc8Byte 0 x

end Sys2Proof.Machine
end

