-- ==== Sys2Proof/Machine/Framing.lean ====
section
/-! DEFINITION. The datapath functions of the framer: checksum attachment and the command frame
(41_serialize.md), partition, the two checksum lists, validation and word extraction (42_validate.md). -/

namespace Sys2Proof.Machine

/-- A word with its own checksum, format `WB` (41_serialize.md R141, 30_encoding.md R82). -/
def attach (w : Word) : List Byte := ser16 w ++ [crc8 (ser16 w)]

/-- The command frame, format `CF` (41_serialize.md R142, 30_encoding.md R83). The opcode has no checksum. -/
def frame (op : Word) (pay : List Word) : List Byte := ser16 op ++ pay.flatMap attach

/-- A word block as received: two data bytes and the checksum byte (42_validate.md R161). -/
structure Block where
  b0 : Byte
  b1 : Byte
  c  : Byte
  deriving DecidableEq, Repr

/-- The buffer cut into blocks of 3 bytes, in order (42_validate.md R161). Used on buffers whose length is a
multiple of 3; there is no remainder then. -/
def partition : List Byte → List Block
  | b0 :: b1 :: c :: rest => ⟨b0, b1, c⟩ :: partition rest
  | _ => []

/-- The checksum recomputed over a block's two data bytes, from a fresh accumulator (42_validate.md R162). -/
def Block.recomputed (b : Block) : Byte := crc8 [b.b0, b.b1]

/-- A block is valid when the received checksum is the recomputed one (42_validate.md R163). -/
def Block.check (b : Block) : Bool := b.recomputed == b.c

/-- The received checksum bytes (42_validate.md R162). -/
def rcvOf (buf : List Byte) : List Byte := (partition buf).map Block.c

/-- The recomputed checksum bytes (42_validate.md R162). -/
def calcOf (buf : List Byte) : List Byte := (partition buf).map Block.recomputed

/-- The data words, checksum bytes dropped (42_validate.md R165). -/
def words (buf : List Byte) : List Word := (partition buf).map fun b => des16 b.b0 b.b1

/-- What validation answers (42_validate.md R163). -/
inductive Verdict where
  | valid
  | mismatch (rcvs calcs : List Byte)
  deriving DecidableEq, Repr

/-- All blocks are examined; the two lists are complete (42_validate.md R163, R166). -/
def validate (buf : List Byte) : Verdict :=
  if rcvOf buf = calcOf buf then .valid else .mismatch (rcvOf buf) (calcOf buf)

end Sys2Proof.Machine
end

