-- ==== Sys2Proof/Config.lean ====
section
/-! DEFINITION. What an instance of the block fixes (00_scope.md R9), the reset values the spec leaves
open (assumption log 8, 9, 10), and the one free value (assumption log 18).

`P_MAX`, `R_MAX`, `L_MAX` and `W_WAIT` are unbounded, as R9 allows (log 6); `STOP_WAIT_MS` is an operand of
the stop operation (log 20); `IfProtocol` is not modelled (R9, 92_eei_decisions.md D1). -/

namespace Sys2Proof

/-- `cfg_addr`: the default 0x62 the source gives (10_state.md R22). -/
def Config.cfgAddr : BusAddr := 0x62

/-- DESIGN CHOICE (log 8): `cfg_enforce` has no default in the spec (10_state.md R23); the machine of
`State.reset` has enforcement off. `State.resetWith` and the host's reset take either setting. -/
def Config.cfgEnforce : Bool := false

/-- DESIGN CHOICE (log 9): the reset value of `MODE.LOW_POWER`, unspecified in 10_state.md Table R39. -/
def Config.resetLowPower : Bool := false

/-- DESIGN CHOICE (log 9): the reset value of `MODE.SINGLE_SHOT`, unspecified in 10_state.md Table R39. -/
def Config.resetSingleShot : Bool := false

/-- DESIGN CHOICE (log 10): the reset value of `ACC`, unspecified in 10_state.md Table R39. -/
def Config.resetAcc : Byte := 0x00

/-- FREE VALUE (log 18): whether the k-th tie of `round` is rounded up. 44_catalog.md R215 and
92_eei_decisions.md D21 admit either neighbour, so this constant has no body. -/
opaque Config.tieRoundsUp : Nat → Bool

end Sys2Proof
end

