-- ==== Sys2Proof/Syntax.lean ====
section
/-! DEFINITION. The operations a host presents: one constructor per row of spec/opcode_table.json
(30_encoding.md R87, R89). -/

namespace Sys2Proof

/-- An exact number a host passes or receives (44_catalog.md R210 "primitive numeric inputs"): the rational
`num / (denPred + 1)`. Every value of the two fields is a number (log 19). -/
structure Quantity where
  num     : Int
  denPred : Nat
  deriving DecidableEq, Repr

/-- The denominator of a quantity, never 0. -/
def Quantity.den (q : Quantity) : Nat := q.denPred + 1

/-- The rows of the opcode table. The first four are the block's operations (Table R85); the others are the
catalogue's pseudo-operations (Table R89) with the arguments of 30_encoding.md R97. -/
inductive Instr where
  /-- CSUM (40_checksum.md R117). -/
  | csum (bs : List Byte)
  /-- FRAME (41_serialize.md R143). -/
  | frame (op : Word) (pay : List Word)
  /-- VALID (42_validate.md R164). -/
  | valid (buf : List Byte)
  /-- EXEC (43_execute.md R190). -/
  | exec (op : Word) (pay : List Word) (wait rlen : Nat)
  /-- save_config (44_catalog.md R211). -/
  | saveConfig
  /-- get_id (44_catalog.md R212). -/
  | getId
  /-- exec_self_test (44_catalog.md R213). -/
  | execSelfTest
  /-- reinit (44_catalog.md R214). -/
  | reinit
  /-- set_temperature_offset, degrees Celsius (44_catalog.md R215). -/
  | setTemperatureOffset (offset : Quantity)
  /-- get_temperature_offset (44_catalog.md R216). -/
  | getTemperatureOffset
  /-- set_altitude, metres (44_catalog.md R217). -/
  | setAltitude (meters : Quantity)
  /-- get_altitude (44_catalog.md R218). -/
  | getAltitude
  /-- set_ambient_pressure, pascal (44_catalog.md R219). -/
  | setAmbientPressure (pressure : Quantity)
  /-- periodic_measurement(start=true) in low power (44_catalog.md R220). -/
  | periodicMeasurementStartLowPower
  /-- periodic_measurement(start=true), normal (44_catalog.md R220). -/
  | periodicMeasurementStartNormal
  /-- periodic_measurement(start=false); `stopWait` is `STOP_WAIT_MS` (44_catalog.md R221, log 20). -/
  | periodicMeasurementStop (stopWait : Nat)
  /-- is_data_ready (44_catalog.md R222). -/
  | isDataReady
  deriving DecidableEq, Repr

end Sys2Proof
end

