-- ==== Sys2Proof/WellFormed.lean ====
section
/-! DEFINITION. The conditions on operands alone (30_encoding.md R93, 00_scope.md Table R9). An operation
that violates one is still decodable; its meaning refuses it by name. -/

namespace Sys2Proof

/-- With the capacities unbounded (log 6) the conditions that remain are the two multiple-of-3 ones of
30_encoding.md R93 and the range of `STOP_WAIT_MS` (00_scope.md Table R9). -/
def Instr.wellFormed : Instr → Bool
  | .csum _ => true
  | .frame _ _ => true
  | .valid buf => buf.length % 3 == 0
  | .exec _ _ _ rlen => rlen % 3 == 0
  | .saveConfig => true
  | .getId => true
  | .execSelfTest => true
  | .reinit => true
  | .setTemperatureOffset _ => true
  | .getTemperatureOffset => true
  | .setAltitude _ => true
  | .getAltitude => true
  | .setAmbientPressure _ => true
  | .periodicMeasurementStartLowPower => true
  | .periodicMeasurementStartNormal => true
  | .periodicMeasurementStop stopWait => decide (stopWait ≤ 500)
  | .isDataReady => true

end Sys2Proof
end

