-- ==== Sys2Proof/Decode.lean ====
section
/-! DEFINITION. The byte record of a host request, read and written. The spec makes a request an abstract
record with no bit layout beyond `OPSEL` (30_encoding.md R85, R87) and gives the catalogue rows their 16-bit
opcodes (Table R89); how operands stand in bytes is the model's choice (log 1, log 2):

  block operation:  one byte `OPSEL`, then the operands
  catalogue call:   the opcode big-endian (R81), then the arguments
  word:             2 bytes big-endian (R81)
  natural number:   base 128, least significant group first, bit 7 set on every byte but the last
  byte sequence:    its length, then the bytes;  word list: its length, then the words
  quantity:         sign byte (0 or 1), magnitude of `num`, `denPred` -/

namespace Sys2Proof

open Machine (ser16 des16)

/-- Why a byte record is no request. -/
inductive DecodeError where
  /-- The record has no byte. -/
  | emptyRecord
  /-- The record ends inside an operand. -/
  | truncated
  /-- The first byte is no `OPSEL` code and the first two bytes are no opcode of Table R89. -/
  | unknownOperation (first second : Byte)
  /-- A number is written with a superfluous last group. -/
  | overlongNumber
  /-- A sign byte other than 0 and 1, or a negative zero. -/
  | badSign
  /-- Bytes stand after the request's last operand. -/
  | trailingBytes
  deriving DecidableEq, Repr

/-! ### Reading operands: each reader answers the value and the bytes after it -/

/-- A natural number. -/
def decNat : List Byte → Except DecodeError (Nat × List Byte)
  | [] => .error .truncated
  | b :: rest =>
    if b.toNat < 128 then .ok (b.toNat, rest)
    else match decNat rest with
      | .ok (m, rest') => if m = 0 then .error .overlongNumber else .ok (b.toNat - 128 + 128 * m, rest')
      | .error e => .error e

/-- A word. -/
def decWord : List Byte → Except DecodeError (Word × List Byte)
  | b0 :: b1 :: rest => .ok (des16 b0 b1, rest)
  | _ => .error .truncated

/-- `n` bytes. -/
def decTake : Nat → List Byte → Except DecodeError (List Byte × List Byte)
  | 0, bs => .ok ([], bs)
  | _ + 1, [] => .error .truncated
  | n + 1, b :: bs => match decTake n bs with
    | .ok (t, rest) => .ok (b :: t, rest)
    | .error e => .error e

/-- `n` words. -/
def decTakeWords : Nat → List Byte → Except DecodeError (List Word × List Byte)
  | 0, bs => .ok ([], bs)
  | n + 1, bs => match bs with
    | b0 :: b1 :: rest => match decTakeWords n rest with
      | .ok (ws, rest') => .ok (des16 b0 b1 :: ws, rest')
      | .error e => .error e
    | _ => .error .truncated

/-- A byte sequence. -/
def decBytes (bs : List Byte) : Except DecodeError (List Byte × List Byte) :=
  match decNat bs with
  | .ok (n, rest) => decTake n rest
  | .error e => .error e

/-- A word list. -/
def decWords (bs : List Byte) : Except DecodeError (List Word × List Byte) :=
  match decNat bs with
  | .ok (n, rest) => decTakeWords n rest
  | .error e => .error e

/-- A signed numerator. -/
def decInt : List Byte → Except DecodeError (Int × List Byte)
  | [] => .error .truncated
  | sign :: bs =>
    if sign = 0 ∨ sign = 1 then
      match decNat bs with
      | .ok (m, rest) =>
        if sign = 0 then .ok ((m : Int), rest)
        else if m = 0 then .error .badSign
        else .ok (-(m : Int), rest)
      | .error e => .error e
    else .error .badSign

/-- A quantity. -/
def decQuantity (bs : List Byte) : Except DecodeError (Quantity × List Byte) :=
  match decInt bs with
  | .ok (num, rest) => match decNat rest with
    | .ok (denPred, rest') => .ok (⟨num, denPred⟩, rest')
    | .error e => .error e
  | .error e => .error e

/-- The operands of EXEC (30_encoding.md Table R85). -/
def decExec (bs : List Byte) : Except DecodeError (Instr × List Byte) :=
  match decWord bs with
  | .ok (op, r1) => match decWords r1 with
    | .ok (pay, r2) => match decNat r2 with
      | .ok (wait, r3) => match decNat r3 with
        | .ok (rlen, r4) => .ok (.exec op pay wait rlen, r4)
        | .error e => .error e
      | .error e => .error e
    | .error e => .error e
  | .error e => .error e

/-- The operands of FRAME (30_encoding.md Table R85). -/
def decFrame (bs : List Byte) : Except DecodeError (Instr × List Byte) :=
  match decWord bs with
  | .ok (op, r1) => match decWords r1 with
    | .ok (pay, r2) => .ok (.frame op pay, r2)
    | .error e => .error e
  | .error e => .error e

/-- A catalogue call: the opcode of 30_encoding.md Table R89 and then the arguments of R97. -/
def decCatalog (b0 b1 : Byte) (bs : List Byte) : Except DecodeError (Instr × List Byte) :=
  let op := des16 b0 b1
  if op = Machine.opSaveConfig then .ok (.saveConfig, bs)
  else if op = Machine.opGetId then .ok (.getId, bs)
  else if op = Machine.opExecSelfTest then .ok (.execSelfTest, bs)
  else if op = Machine.opReinit then .ok (.reinit, bs)
  else if op = Machine.opSetTemperatureOffset then (decQuantity bs).map fun p => (.setTemperatureOffset p.1, p.2)
  else if op = Machine.opGetTemperatureOffset then .ok (.getTemperatureOffset, bs)
  else if op = Machine.opSetAltitude then (decQuantity bs).map fun p => (.setAltitude p.1, p.2)
  else if op = Machine.opGetAltitude then .ok (.getAltitude, bs)
  else if op = Machine.opSetAmbientPressure then (decQuantity bs).map fun p => (.setAmbientPressure p.1, p.2)
  else if op = Machine.opStartLowPower then .ok (.periodicMeasurementStartLowPower, bs)
  else if op = Machine.opStartNormal then .ok (.periodicMeasurementStartNormal, bs)
  else if op = Machine.opStop then (decNat bs).map fun p => (.periodicMeasurementStop p.1, p.2)
  else if op = Machine.opIsDataReady then .ok (.isDataReady, bs)
  else .error (.unknownOperation b0 b1)

/-- The request at the head of a byte list, and the bytes after it. All four `OPSEL` codes are assigned
(30_encoding.md R87); no opcode of Table R89 begins with one of their bytes. -/
def decode : List Byte → Except DecodeError (Instr × List Byte)
  | [] => .error .emptyRecord
  | b :: rest =>
    if b = Machine.opselCsum then (decBytes rest).map fun p => (.csum p.1, p.2)
    else if b = Machine.opselFrame then decFrame rest
    else if b = Machine.opselValid then (decBytes rest).map fun p => (.valid p.1, p.2)
    else if b = Machine.opselExec then decExec rest
    else match rest with
      | b1 :: rest' => decCatalog b b1 rest'
      | [] => .error .truncated

/-- A whole record: one request and nothing after it. -/
def decodeRecord (bs : List Byte) : Except DecodeError Instr :=
  match decode bs with
  | .ok (i, []) => .ok i
  | .ok (_, _ :: _) => .error .trailingBytes
  | .error e => .error e

/-! ### The encoder, from the same layout -/

/-- Base-128 groups of a number; `fuel` at least the number is enough. -/
def encNatFuel : Nat → Nat → List Byte
  | 0, _ => [0]
  | fuel + 1, n =>
    if n < 128 then [BitVec.ofNat 8 n]
    else BitVec.ofNat 8 (n % 128 + 128) :: encNatFuel fuel (n / 128)

/-- A natural number. -/
def encNat (n : Nat) : List Byte := encNatFuel n n

/-- A byte sequence. -/
def encBytes (bs : List Byte) : List Byte := encNat bs.length ++ bs

/-- A word list. -/
def encWords (ws : List Word) : List Byte := encNat ws.length ++ ws.flatMap ser16

/-- A signed numerator. -/
def encInt (z : Int) : List Byte :=
  if 0 ≤ z then 0 :: encNat z.toNat else 1 :: encNat (-z).toNat

/-- A quantity. -/
def encQuantity (q : Quantity) : List Byte := encInt q.num ++ encNat q.denPred

/-- The record of a request. -/
def encode : Instr → List Byte
  | .csum bs => Machine.opselCsum :: encBytes bs
  | .frame op pay => Machine.opselFrame :: (ser16 op ++ encWords pay)
  | .valid buf => Machine.opselValid :: encBytes buf
  | .exec op pay wait rlen => Machine.opselExec :: (ser16 op ++ encWords pay ++ encNat wait ++ encNat rlen)
  | .saveConfig => ser16 Machine.opSaveConfig
  | .getId => ser16 Machine.opGetId
  | .execSelfTest => ser16 Machine.opExecSelfTest
  | .reinit => ser16 Machine.opReinit
  | .setTemperatureOffset q => ser16 Machine.opSetTemperatureOffset ++ encQuantity q
  | .getTemperatureOffset => ser16 Machine.opGetTemperatureOffset
  | .setAltitude q => ser16 Machine.opSetAltitude ++ encQuantity q
  | .getAltitude => ser16 Machine.opGetAltitude
  | .setAmbientPressure q => ser16 Machine.opSetAmbientPressure ++ encQuantity q
  | .periodicMeasurementStartLowPower => ser16 Machine.opStartLowPower
  | .periodicMeasurementStartNormal => ser16 Machine.opStartNormal
  | .periodicMeasurementStop stopWait => ser16 Machine.opStop ++ encNat stopWait
  | .isDataReady => ser16 Machine.opIsDataReady

/-! ### Words numbered as spec/opcode_table.json numbers them -/

/-- The bytes of a table word followed by operand bytes of zeros: a row of up to 8 bits (`OPSEL`) is one byte, a
row of 16 bits is one word big-endian (30_encoding.md R81). -/
def layTableWord (nbits w : Nat) : List Byte :=
  (if nbits ≤ 8 then [BitVec.ofNat 8 w] else ser16 (BitVec.ofNat 16 w)) ++ List.replicate 8 0

/-- The instruction the decoder reads from a table word with operands of zeros. -/
def decodeTableWord (nbits w : Nat) : Option Instr :=
  match decode (layTableWord nbits w) with
  | .ok (i, _) => some i
  | .error _ => none

/-- The record of that instruction: its own bytes, without the zeros after them. -/
def tableRecord (nbits w : Nat) : List Byte :=
  let bytes := layTableWord nbits w
  match decode bytes with
  | .ok (_, rest) => bytes.take (bytes.length - rest.length)
  | .error _ => bytes

end Sys2Proof
end

