-- ==== Sys2Proof/Machine/State.lean ====
section
/-! DEFINITION. The state of the block (10_state.md R20 to R40), of the host layer around it (44_catalog.md) and of
the environment's inputs (20_memory.md R60), as plain data; the reasons a step stops; the state after reset. -/

namespace Sys2Proof.Machine

/-- The sequencer phase `PH` (10_state.md R30): `IDLE` and the eight steps of EXEC. -/
inductive Phase where
  | idle | s1 | s2 | s3 | s4 | s5 | s6 | s7 | s8
  deriving DecidableEq, Repr

/-- The descriptor `DESC` (10_state.md R27). -/
structure Desc where
  /-- `DESC.op`, 16 bits. -/
  op   : Word
  /-- `DESC.pay`, the payload words. -/
  pay  : List Word
  /-- `DESC.wait`, milliseconds. -/
  wait : Nat
  /-- `DESC.rlen`, bytes. -/
  rlen : Nat
  deriving DecidableEq, Repr

/-- The opaque failure value of the transport (60_exceptions.md R243): the block passes it on and never looks into it.
DESIGN CHOICE (log 13): a natural number stands for it. -/
structure TransportFailure where
  token : Nat
  deriving DecidableEq, Repr

/-- The outcome of `Transport.write` as the block sees it (20_memory.md R61). -/
inductive WriteOutcome where
  | ok
  | err (e : TransportFailure)
  deriving DecidableEq, Repr

/-- What the environment answers to a write. With an error, `reached` bytes of the frame got to the device: the block
does not learn it (20_memory.md R61, log 23). -/
inductive WriteAnswer where
  | ok
  | err (e : TransportFailure) (reached : Nat)
  deriving DecidableEq, Repr

/-- The outcome of `Transport.read` (20_memory.md R62). -/
inductive ReadOutcome where
  | bytes (bs : List Byte)
  | short
  | err (e : TransportFailure)
  deriving DecidableEq, Repr

/-- One event of the trace `EV` (10_state.md R36). -/
inductive Event where
  | write (a : BusAddr) (bs : List Byte) (outcome : WriteOutcome)
  | wait (ms : Nat)
  | read (a : BusAddr) (n : Nat) (outcome : ReadOutcome)
  deriving DecidableEq, Repr

/-- The received count that ShortResponse records (60_exceptions.md R241). -/
inductive ShortCount where
  | signalled
  | received (m : Nat)
  deriving DecidableEq, Repr

/-- The three error kinds with what they record (60_exceptions.md R240 to R243). -/
inductive OpError where
  | shortResponse (expected : Nat) (got : ShortCount)
  | checksumMismatch (rcvs calcs : List Byte)
  | transportError (e : TransportFailure)
  deriving DecidableEq, Repr

/-- The value of an `Ok` result (00_scope.md R18, 30_encoding.md Table R85). -/
inductive Value where
  | nothing
  | byte (b : Byte)
  | bytes (bs : List Byte)
  | words (ws : List Word)
  deriving DecidableEq, Repr

/-- The result of an operation (00_scope.md R18). -/
inductive Result where
  | ok (v : Value)
  | err (e : OpError)
  deriving DecidableEq, Repr

/-- How a catalogue recipe decodes its response (44_catalog.md R211 to R222). -/
inductive Decoder where
  /-- Returns nothing. -/
  | nothing
  /-- get_id: three words (R212). -/
  | triple
  /-- exec_self_test: the word is 0 (R213). -/
  | isZero
  /-- get_temperature_offset: the word times 175 / 65536 (R216). -/
  | celsius
  /-- get_altitude: the word (R218). -/
  | meters
  /-- is_data_ready: some bit of the low 11 is 1 (R222). -/
  | ready
  deriving DecidableEq, Repr

/-- The value a catalogue operation returns (44_catalog.md R210). -/
inductive HostValue where
  | nothing
  | triple (w0 w1 w2 : Word)
  | flag (b : Bool)
  | number (q : Quantity)
  deriving DecidableEq, Repr

/-- What a host call returns: a decoded value, or the block's error unchanged (44_catalog.md R224). -/
inductive HostResult where
  | ok (v : HostValue)
  | err (e : OpError)
  deriving DecidableEq, Repr

/-- What the host does next (log 3). -/
inductive HostAction where
  /-- Presents an operation, given as its byte record (log 1). -/
  | request (record : List Byte)
  /-- The call periodic_measurement(start=true), which reads `MODE.LOW_POWER` (44_catalog.md R220, log 21). -/
  | startPeriodic
  /-- The call soft_reset (44_catalog.md R223, log 24). -/
  | softReset
  /-- Writes `MODE.LOW_POWER` (10_state.md R24). -/
  | setLowPower (b : Bool)
  /-- Writes `MODE.SINGLE_SHOT` (10_state.md R25). -/
  | setSingleShot (b : Bool)
  /-- Resets the block with these configuration inputs (70_reset_and_hazards.md R270, log 16). -/
  | reset (addr : BusAddr) (enforce : Bool)
  deriving DecidableEq, Repr

/-- Reasons the machine stops with a fault: none. 93_implementation_defined.md treats no open behaviour as a fault, and
the block's three errors are results after which it goes on (60_exceptions.md R252, R254). -/
inductive Fault where
  deriving DecidableEq, Repr

/-- Reasons a request has no meaning (60_exceptions.md R260). -/
inductive Refusal where
  /-- An instruction without a meaning yet, by its mnemonic; raised by `exec`'s arms only. Safe. -/
  | notModelled (mnemonic : String)
  /-- A request presented while `BUSY` = 1 (70_reset_and_hazards.md R275); raised by every operation. Safe. -/
  | busy
  /-- EXEC with `rlen mod 3 ≠ 0` (30_encoding.md R93); raised by EXEC. Safe. -/
  | responseLengthNotMultipleOf3
  /-- VALID with `|buf| mod 3 ≠ 0` (30_encoding.md R93); raised by VALID. Safe. -/
  | bufferLengthNotMultipleOf3
  /-- A read answered with more bytes than asked, outside the transport's contract (20_memory.md R62); raised by step
  S6. Safe. -/
  | overlongRead
  /-- A host argument whose encoding is not a 16-bit word (44_catalog.md R215, R217, R219; 92_eei_decisions.md D21);
  raised by the three set operations. Safe. -/
  | notAWord
  /-- `STOP_WAIT_MS` above 500, the bound of 00_scope.md Table R9; DESIGN CHOICE (log 20); raised by
  periodic_measurement_stop. Safe. -/
  | stopWaitOutOfRange
  /-- Reset while `BUSY` = 1 (70_reset_and_hazards.md R273); raised by the host's reset. Safe. -/
  | resetWhileBusy
  /-- A byte record that is no request (log 1); raised by the step that serves it. Safe. -/
  | malformedRecord (e : DecodeError)
  deriving DecidableEq, Repr

/-- The state. INVENTORY.md lists every field with its rule and its reset value. -/
structure State where
  /-- `CFG.ADDR` (10_state.md R22). -/
  cfgAddr        : BusAddr
  /-- `CFG.ENFORCE` (10_state.md R23). -/
  cfgEnforce     : Bool
  /-- `MODE.LOW_POWER` (10_state.md R24). -/
  modeLowPower   : Bool
  /-- `MODE.SINGLE_SHOT` (10_state.md R25). -/
  modeSingleShot : Bool
  /-- `PH` (10_state.md R30). -/
  ph             : Phase
  /-- `BUSY` (10_state.md R34). -/
  busy           : Bool
  /-- `DESC` (10_state.md R27). -/
  desc           : Desc
  /-- `TX` (10_state.md R28). -/
  tx             : List Byte
  /-- `RX` (10_state.md R29). -/
  rx             : List Byte
  /-- `RCV` (10_state.md R32). -/
  rcvs           : List Byte
  /-- `CALC` (10_state.md R32). -/
  calcs          : List Byte
  /-- `ACC` (10_state.md R31). -/
  acc            : Byte
  /-- `RES` (10_state.md R33): the result the last operation delivered, none from the next acceptance on (log 26). -/
  res            : Option Result
  /-- `EV` (10_state.md R36), oldest first. -/
  ev             : List Event
  /-- Host layer: the recipe that waits for the result of the EXEC in progress (log 22). -/
  decoder        : Option Decoder
  /-- Host layer: what the last host call returned (log 22). -/
  ret            : Option HostResult
  /-- Input: what the host does next, in order (log 3). -/
  host           : List HostAction
  /-- Input: the transport's coming answers to writes (log 4). -/
  writeAnswers   : List WriteAnswer
  /-- Input: the transport's coming answers to reads (log 4). -/
  readAnswers    : List ReadOutcome
  /-- Model-side: what each write that returned carried to its device, oldest first (log 23). A write that never
  returns is not listed: DESIGN CHOICE, unsafe (log 27). -/
  wire           : List (BusAddr × List Byte)
  /-- Model-side: the counter the free values are applied to (log 18). -/
  freeIx         : Nat
  deriving DecidableEq, Repr

/-- The block right after reset with the configuration inputs latched (70_reset_and_hazards.md R270, 10_state.md
Table R39), nothing waiting at its interfaces. -/
def State.resetWith (addr : BusAddr) (enforce : Bool) : State where
  cfgAddr        := addr
  cfgEnforce     := enforce
  modeLowPower   := Config.resetLowPower
  modeSingleShot := Config.resetSingleShot
  ph             := .idle
  busy           := false
  desc           := ⟨0, [], 0, 0⟩
  tx             := []
  rx             := []
  rcvs           := []
  calcs          := []
  acc            := Config.resetAcc
  res            := none
  ev             := []
  decoder        := none
  ret            := none
  host           := []
  writeAnswers   := []
  readAnswers    := []
  wire           := []
  freeIx         := 0

/-- The machine right after reset: the default address (10_state.md R22), enforcement as log 8 says. -/
def State.reset : State := State.resetWith Config.cfgAddr Config.cfgEnforce

end Sys2Proof.Machine
end

