-- ==== Sys2Proof/Machine/Operands.lean ====
section
/-! DEFINITION. The operand forms of the host layer: how the arguments of the set operations become payload words, and
how a response becomes the value a call returns (44_catalog.md R211 to R225). -/

namespace Sys2Proof.Machine

/-- An integer as a payload word; none when it is not in 0 to 65 535 (44_catalog.md R215, 92_eei_decisions.md D21). -/
def toWord (z : Int) : Option Word :=
  if 0 ≤ z ∧ z ≤ 65535 then some (BitVec.ofNat 16 z.toNat) else none

/-- Whether `n / d` lies exactly halfway between two integers. -/
def isTie (n : Int) (d : Nat) : Bool := 2 * (n % d) == (d : Int)

/-- `n / d` rounded to the nearest integer; `tieUp` chooses between the two neighbours of a tie
(44_catalog.md R215). -/
def roundNearest (tieUp : Bool) (n : Int) (d : Nat) : Int :=
  if 2 * (n % d) < (d : Int) then n / d
  else if 2 * (n % d) = (d : Int) then (if tieUp then n / d + 1 else n / d)
  else n / d + 1

/-- The encode factor 374.49142857 as an exact fraction: its numerator (44_catalog.md R215, conflict C12). -/
def offsetFactorNum : Int := 37449142857
/-- The denominator of the encode factor. -/
def offsetFactorDen : Nat := 100000000

/-- The numerator of the product offset × 374.49142857. -/
def offsetProductNum (q : Quantity) : Int := q.num * offsetFactorNum
/-- The denominator of that product. -/
def offsetProductDen (q : Quantity) : Nat := q.den * offsetFactorDen

/-- The payload word of set_temperature_offset (44_catalog.md R215). -/
def encodeOffset (tieUp : Bool) (q : Quantity) : Option Word :=
  toWord (roundNearest tieUp (offsetProductNum q) (offsetProductDen q))

/-- Whether the product of set_temperature_offset is a tie. -/
def offsetIsTie (q : Quantity) : Bool := isTie (offsetProductNum q) (offsetProductDen q)

/-- The payload word of set_altitude: the metres themselves, an integer (44_catalog.md R217, 92_eei_decisions.md D21). -/
def encodeAltitude (q : Quantity) : Option Word :=
  if q.num % q.den = 0 then toWord (q.num / q.den) else none

/-- The payload word of set_ambient_pressure: floor(pressure / 100) (44_catalog.md R219). -/
def encodePressure (q : Quantity) : Option Word := toWord (q.num / (q.den * 100 : Nat))

/-- Response word i of a buffer, `MemRead(3i, 2)` (44_catalog.md R225). -/
def responseWord (buf : List Byte) (i : Nat) : Option Word := memReadWord buf (3 * i)

/-- The 48-bit serial number of get_id, `w0` most significant (44_catalog.md R212). -/
def serial48 (w0 w1 w2 : Word) : BitVec 48 := w0 ++ w1 ++ w2

/-- The value of a temperature-offset word: word × 175 / 65 536 (44_catalog.md R216). -/
def celsiusOf (w : Word) : Quantity := ⟨175 * (w.toNat : Int), 65535⟩

/-- Whether a data-ready word says ready: some bit of the low 11 is 1 (44_catalog.md R222). -/
def readyOf (w : Word) : Bool := (w &&& 0x07FF) != 0

/-- The response length each recipe asks for (30_encoding.md Table R89). -/
def Decoder.rlen : Decoder → Nat
  | .nothing => 0
  | .triple => 9
  | .isZero => 3
  | .celsius => 3
  | .meters => 3
  | .ready => 3

/-- The value decoded from a response buffer (44_catalog.md R212 to R222); none when the buffer lacks a word. -/
def Decoder.value (d : Decoder) (buf : List Byte) : Option HostValue :=
  match d with
  | .nothing => some .nothing
  | .triple =>
    match responseWord buf 0, responseWord buf 1, responseWord buf 2 with
    | some w0, some w1, some w2 => some (.triple w0 w1 w2)
    | _, _, _ => none
  | .isZero => (responseWord buf 0).map fun w => .flag (w == 0)
  | .celsius => (responseWord buf 0).map fun w => .number (celsiusOf w)
  | .meters => (responseWord buf 0).map fun w => .number ⟨w.toNat, 0⟩
  | .ready => (responseWord buf 0).map fun w => .flag (readyOf w)

/-- What a call returns when its EXEC ends: an error unchanged (44_catalog.md R224), else the decoded value. -/
def Decoder.apply (d : Decoder) (r : Result) : Option HostResult :=
  match r with
  | .err e => some (.err e)
  | .ok .nothing => if d = .nothing then some (.ok .nothing) else none
  | .ok (.bytes buf) => (d.value buf).map .ok
  | .ok (.byte _) => none
  | .ok (.words _) => none

end Sys2Proof.Machine
end

