-- ==== Sys2Proof/Machine/Ops.lean ====
section
/-! DEFINITION. The shared operations over the state: acceptance and delivery of an operation, raising an error, the
checksum accumulator, the buffers, the transport and the timer. -/

namespace Sys2Proof.Machine

/-- `PH <- p` (00_scope.md R16). -/
def State.setPh (p : Phase) (s : State) : State := { s with ph := p }

/-- `TX <- bs`. -/
def State.setTx (bs : List Byte) (s : State) : State := { s with tx := bs }

/-- `RX <- bs`. -/
def State.setRx (bs : List Byte) (s : State) : State := { s with rx := bs }

/-- Acceptance of an operation: busy, scratch buffers empty, no result pending (10_state.md R34, R40). -/
def accept (s : State) : State :=
  { s with busy := true, tx := [], rx := [], rcvs := [], calcs := [], res := none, ret := none, decoder := none }

/-- Acceptance of an EXEC: the descriptor is latched and the sequencer enters S1 (43_execute.md R190, Table R191);
`dec` is the catalogue recipe that presented it, if one did (log 22). -/
def acceptExec (dec : Option Decoder) (d : Desc) (s : State) : State :=
  { accept s with desc := d, ph := .s1, decoder := dec }

/-- Delivery of a result: back to `IDLE`, not busy (10_state.md R40). A catalogue recipe that waits gets the result and
decodes it (44_catalog.md R210, R224). -/
def deliver (r : Result) (s : State) : State :=
  { s with res := some r, ph := .idle, busy := false, ret := s.decoder.bind (·.apply r), decoder := none }

/-- TAKING AN ERROR, `raise K(info)` (60_exceptions.md R250): the result is `Err(K, info)`, `PH <- IDLE`, `BUSY <- 0`,
nothing else. There is no handler, no saved phase and no operation that returns from an error (R252). -/
def raise (e : OpError) (s : State) : State := deliver (.err e) s

/-- One checksum computation in the accumulator: set to 0xFF, the bytes in order (10_state.md R31,
40_checksum.md R116). Its result is `ACC` afterwards. -/
def runChecksum (bs : List Byte) (s : State) : State := { s with acc := crc8 bs }

/-- `TX <- TX ++ attach(w)` (43_execute.md R183): the word, then the checksum just computed. -/
def appendWord (w : Word) (s : State) : State :=
  let s' := runChecksum (ser16 w) s
  s'.setTx (s'.tx ++ ser16 w ++ [s'.acc])

/-- The loop of 43_execute.md R183. -/
def appendWords (ws : List Word) (s : State) : State := ws.foldl (fun t w => appendWord w t) s

/-- `RCV <- rcv(RX); CALC <- calc(RX)` (42_validate.md R163); each recomputation runs in the accumulator. -/
def runValidation (s : State) : State :=
  { s with rcvs := rcvOf s.rx, calcs := calcOf s.rx, acc := (calcOf s.rx).getLastD s.acc }

/-- `MemRead(a, n)` on `RX` (00_scope.md R16), for n = 1 or 2. -/
def State.memRead (s : State) (a n : Nat) : Option Nat :=
  match n with
  | 1 => (memReadByte s.rx a).map BitVec.toNat
  | 2 => (memReadWord s.rx a).map BitVec.toNat
  | _ => none

/-- `MemWrite(a, n, v)` on `TX` (00_scope.md R16), for n = 1 or 2. -/
def State.memWrite (s : State) (a n : Nat) (v : Word) : Option State :=
  match n with
  | 1 => (memWriteByte s.tx a (v.extractLsb' 0 8)).map fun tx => { s with tx := tx }
  | 2 => (memWriteWord s.tx a v).map fun tx => { s with tx := tx }
  | _ => none

/-- The answer as the block sees it (20_memory.md R61). -/
def WriteAnswer.outcome : WriteAnswer → WriteOutcome
  | .ok => .ok
  | .err e _ => .err e

/-- What of a frame reached the device: all of it, or any initial part (20_memory.md R61). -/
def WriteAnswer.carried (bs : List Byte) : WriteAnswer → List Byte
  | .ok => bs
  | .err _ reached => bs.take reached

/-- `Transport.write(CFG.ADDR, TX)` answered with `w`, the answers after it being `rest`: one event carrying the whole
frame (20_memory.md R56, R61). -/
def transportWrite (w : WriteAnswer) (rest : List WriteAnswer) (s : State) : State :=
  { s with
    writeAnswers := rest
    ev   := s.ev ++ [.write s.cfgAddr s.tx w.outcome]
    wire := s.wire ++ [(s.cfgAddr, w.carried s.tx)] }

/-- `Transport.read(CFG.ADDR, DESC.rlen)` answered with `o`, the answers after it being `rest` (20_memory.md R62). -/
def transportRead (o : ReadOutcome) (rest : List ReadOutcome) (s : State) : State :=
  { s with readAnswers := rest, ev := s.ev ++ [.read s.cfgAddr s.desc.rlen o] }

/-- `Timer.sleep(DESC.wait)`: one event when the wait is not 0, nothing when it is (43_execute.md R185,
60_exceptions.md R258). It always returns. -/
def timerSleep (s : State) : State :=
  if s.desc.wait = 0 then s else { s with ev := s.ev ++ [.wait s.desc.wait] }

end Sys2Proof.Machine
end

