-- ==== Sys2Proof/Machine/Sequencer.lean ====
section
/-! DEFINITION. The execute-command sequencer, operation EXEC (43_execute.md): the eight steps one by one and the
operation as a whole. A transport call that has not been answered leaves the block in the step that made it
(20_memory.md R64, 60_exceptions.md R261, log 4). -/

namespace Sys2Proof.Machine

/-- Step 1: `TX <- ser16(DESC.op)` (43_execute.md R182). -/
def stepS1 (s : State) : State := (s.setTx (ser16 s.desc.op)).setPh .s2

/-- Step 2: the payload words, each with its checksum (43_execute.md R183). -/
def stepS2 (s : State) : State := (appendWords s.desc.pay s).setPh .s3

/-- Step 3: the write (43_execute.md R184). A call without an answer leaves the block in S3 with no event (R64); that it
also leaves `wire` as it was is the model's choice: DESIGN CHOICE, unsafe, the spec does not say which bytes reached the
device (log 27). -/
def stepS3 (s : State) : State :=
  match s.writeAnswers with
  | [] => s
  | .ok :: rest => (transportWrite .ok rest s).setPh .s4
  | .err e reached :: rest => raise (.transportError e) (transportWrite (.err e reached) rest s)

/-- Step 4: the wait (43_execute.md R185). -/
def stepS4 (s : State) : State := (timerSleep s).setPh .s5

/-- Step 5: an operation without a response ends here (43_execute.md R186). -/
def stepS5 (s : State) : State :=
  if s.desc.rlen = 0 then deliver (.ok .nothing) s else s.setPh .s6

/-- Step 6: the read and the length test (43_execute.md R187). -/
def stepS6 (s : State) : Host.Outcome State Fault Refusal :=
  match s.readAnswers with
  | [] => .next s
  | .err e :: rest => .next (raise (.transportError e) (transportRead (.err e) rest s))
  | .short :: rest => .next (raise (.shortResponse s.desc.rlen .signalled) (transportRead .short rest s))
  | .bytes bs :: rest =>
    if bs.length < s.desc.rlen then
      .next (raise (.shortResponse s.desc.rlen (.received bs.length)) (transportRead (.bytes bs) rest s))
    else if bs.length = s.desc.rlen then
      .next (((transportRead (.bytes bs) rest s).setRx bs).setPh .s7)
    else .refused .overlongRead

/-- Step 7: validation when it is enforced (43_execute.md R188). -/
def stepS7 (s : State) : State :=
  if s.cfgEnforce then
    match validate s.rx with
    | .valid => (runValidation s).setPh .s8
    | .mismatch rcvs calcs => raise (.checksumMismatch rcvs calcs) (runValidation s)
  else s.setPh .s8

/-- Step 8: the raw buffer, checksum bytes included (43_execute.md R189). -/
def stepS8 (s : State) : State := deliver (.ok (.bytes s.rx)) s

/-- One move of `PH` (43_execute.md Table R191). An idle block makes none. -/
def phaseStep (s : State) : Host.Outcome State Fault Refusal :=
  match s.ph with
  | .idle => .next s
  | .s1 => .next (stepS1 s)
  | .s2 => .next (stepS2 s)
  | .s3 => .next (stepS3 s)
  | .s4 => .next (stepS4 s)
  | .s5 => .next (stepS5 s)
  | .s6 => stepS6 s
  | .s7 => .next (stepS7 s)
  | .s8 => .next (stepS8 s)

/-- `n` moves of `PH`, stopping where one is refused. -/
def runPhases : Nat → State → Host.Outcome State Fault Refusal
  | 0, s => .next s
  | n + 1, s =>
    match phaseStep s with
    | .next s' => runPhases n s'
    | .fault r => .fault r
    | .refused r => .refused r

/-- Presents an EXEC with descriptor `d`: the preconditions of 43_execute.md R181, then acceptance and the eight steps
(R190). The operation is over when `PH` is `IDLE` again; a call without an answer leaves it in S3 or S6. -/
def presentExec (dec : Option Decoder) (d : Desc) (s : State) : Host.Outcome State Fault Refusal :=
  if s.busy then .refused .busy
  else if d.rlen % 3 = 0 then runPhases 8 (acceptExec dec d s)
  else .refused .responseLengthNotMultipleOf3

/-- EXEC (43_execute.md R190). Any opcode is passed on unchanged (30_encoding.md R90). -/
def execExec (op : Word) (pay : List Word) (wait rlen : Nat) (s : State) : Host.Outcome State Fault Refusal :=
  presentExec none ⟨op, pay, wait, rlen⟩ s

end Sys2Proof.Machine
end

