-- ==== Sys2Proof/Machine/Catalog.lean ====
section
/-! DEFINITION. The host catalogue (44_catalog.md): each pseudo-operation presents one EXEC with the descriptor of
30_encoding.md Table R89 and decodes its result (R210). -/

namespace Sys2Proof.Machine

/-- A set operation: one payload word, wait 1, no response; a value that is not a word is refused
(92_eei_decisions.md D21). -/
def presentSet (op : Word) (p : Option Word) (s : State) : Host.Outcome State Fault Refusal :=
  match p with
  | some w => presentExec (some .nothing) ⟨op, [w], 1, 0⟩ s
  | none => if s.busy then .refused .busy else .refused .notAWord

/-- A query: no payload, the response length its decoder needs. -/
def presentQuery (op : Word) (wait : Nat) (dec : Decoder) (s : State) : Host.Outcome State Fault Refusal :=
  presentExec (some dec) ⟨op, [], wait, dec.rlen⟩ s

/-- save_config (44_catalog.md R211). -/
def execSaveConfig (s : State) : Host.Outcome State Fault Refusal := presentQuery opSaveConfig 800 .nothing s

/-- get_id (44_catalog.md R212). -/
def execGetId (s : State) : Host.Outcome State Fault Refusal := presentQuery opGetId 1 .triple s

/-- exec_self_test (44_catalog.md R213). -/
def execExecSelfTest (s : State) : Host.Outcome State Fault Refusal := presentQuery opExecSelfTest 10000 .isZero s

/-- reinit (44_catalog.md R214). That measurement is stopped is not checked (70_reset_and_hazards.md R277). -/
def execReinit (s : State) : Host.Outcome State Fault Refusal := presentQuery opReinit 20 .nothing s

/-- set_temperature_offset (44_catalog.md R215). A tie takes a free value, fresh each time (log 18). -/
def execSetTemperatureOffset (offset : Quantity) (s : State) : Host.Outcome State Fault Refusal :=
  let p := encodeOffset (Config.tieRoundsUp s.freeIx) offset
  if offsetIsTie offset then presentSet opSetTemperatureOffset p { s with freeIx := s.freeIx + 1 }
  else presentSet opSetTemperatureOffset p s

/-- get_temperature_offset (44_catalog.md R216). -/
def execGetTemperatureOffset (s : State) : Host.Outcome State Fault Refusal :=
  presentQuery opGetTemperatureOffset 1 .celsius s

/-- set_altitude (44_catalog.md R217). -/
def execSetAltitude (meters : Quantity) (s : State) : Host.Outcome State Fault Refusal :=
  presentSet opSetAltitude (encodeAltitude meters) s

/-- get_altitude (44_catalog.md R218). -/
def execGetAltitude (s : State) : Host.Outcome State Fault Refusal := presentQuery opGetAltitude 1 .meters s

/-- set_ambient_pressure (44_catalog.md R219). -/
def execSetAmbientPressure (pressure : Quantity) (s : State) : Host.Outcome State Fault Refusal :=
  presentSet opSetAmbientPressure (encodePressure pressure) s

/-- periodic_measurement(start=true), the low-power opcode (44_catalog.md R220, log 21). -/
def execPeriodicMeasurementStartLowPower (s : State) : Host.Outcome State Fault Refusal :=
  presentQuery opStartLowPower 0 .nothing s

/-- periodic_measurement(start=true), the normal opcode (44_catalog.md R220, log 21). -/
def execPeriodicMeasurementStartNormal (s : State) : Host.Outcome State Fault Refusal :=
  presentQuery opStartNormal 0 .nothing s

/-- periodic_measurement(start=false) with `STOP_WAIT_MS` = `stopWait` (44_catalog.md R221, log 20). -/
def execPeriodicMeasurementStop (stopWait : Nat) (s : State) : Host.Outcome State Fault Refusal :=
  if s.busy then .refused .busy
  else if stopWait ≤ 500 then presentQuery opStop stopWait .nothing s
  else .refused .stopWaitOutOfRange

/-- is_data_ready (44_catalog.md R222). -/
def execIsDataReady (s : State) : Host.Outcome State Fault Refusal := presentQuery opIsDataReady 1 .ready s

/-- The call periodic_measurement(start=true): the opcode is chosen by `MODE.LOW_POWER` and nothing else
(44_catalog.md R220); `MODE.SINGLE_SHOT` plays no part (10_state.md R25). -/
def callStartPeriodic (s : State) : Host.Outcome State Fault Refusal :=
  if s.modeLowPower then execPeriodicMeasurementStartLowPower s else execPeriodicMeasurementStartNormal s

/-- The call soft_reset: no request, no event; it returns nothing (44_catalog.md R223). -/
def callSoftReset (s : State) : State := { s with ret := some (.ok .nothing) }

end Sys2Proof.Machine
end

