-- ==== Sys2Proof/Machine/Pure.lean ====
section
/-! DEFINITION. The three operations that touch neither the transport nor the timer: CSUM (40_checksum.md), FRAME
(41_serialize.md), VALID (42_validate.md). None reads the configuration. -/

namespace Sys2Proof.Machine

/-- CSUM (40_checksum.md R117). -/
def execCsum (bs : List Byte) (s : State) : Host.Outcome State Fault Refusal :=
  if s.busy then .refused .busy
  else
    let s' := runChecksum bs (accept s)
    .next (deliver (.ok (.byte s'.acc)) s')

/-- FRAME (41_serialize.md R143): the frame is built in `TX` and returned; nothing is written to the transport. -/
def execFrame (op : Word) (pay : List Word) (s : State) : Host.Outcome State Fault Refusal :=
  if s.busy then .refused .busy
  else
    let s' := appendWords pay ((accept s).setTx (ser16 op))
    .next (deliver (.ok (.bytes s'.tx)) s')

/-- VALID (42_validate.md R164): validates whatever `CFG.ENFORCE` says (R172). -/
def execValid (buf : List Byte) (s : State) : Host.Outcome State Fault Refusal :=
  if s.busy then .refused .busy
  else if buf.length % 3 = 0 then
    let s' := runValidation ((accept s).setRx buf)
    match validate s'.rx with
    | .valid => .next (deliver (.ok (.words (words s'.rx))) s')
    | .mismatch rcvs calcs => .next (raise (.checksumMismatch rcvs calcs) s')
  else .refused .bufferLengthNotMultipleOf3

end Sys2Proof.Machine
end

