-- ==== Sys2Proof/Machine/Dispatch.lean ====
section
/-! DEFINITION. One arm per constructor of `Instr`, each a direct call of its meaning. -/

namespace Sys2Proof.Machine

def exec (i : Instr) (s : State) : Host.Outcome State Fault Refusal :=
  match i with
  | .csum bs => Sys2Proof.Machine.execCsum bs s
  | .frame op pay => Sys2Proof.Machine.execFrame op pay s
  | .valid buf => Sys2Proof.Machine.execValid buf s
  | .exec op pay wait rlen => Sys2Proof.Machine.execExec op pay wait rlen s
  | .saveConfig => Sys2Proof.Machine.execSaveConfig s
  | .getId => Sys2Proof.Machine.execGetId s
  | .execSelfTest => Sys2Proof.Machine.execExecSelfTest s
  | .reinit => Sys2Proof.Machine.execReinit s
  | .setTemperatureOffset offset => Sys2Proof.Machine.execSetTemperatureOffset offset s
  | .getTemperatureOffset => Sys2Proof.Machine.execGetTemperatureOffset s
  | .setAltitude meters => Sys2Proof.Machine.execSetAltitude meters s
  | .getAltitude => Sys2Proof.Machine.execGetAltitude s
  | .setAmbientPressure pressure => Sys2Proof.Machine.execSetAmbientPressure pressure s
  | .periodicMeasurementStartLowPower => Sys2Proof.Machine.execPeriodicMeasurementStartLowPower s
  | .periodicMeasurementStartNormal => Sys2Proof.Machine.execPeriodicMeasurementStartNormal s
  | .periodicMeasurementStop stopWait => Sys2Proof.Machine.execPeriodicMeasurementStop stopWait s
  | .isDataReady => Sys2Proof.Machine.execIsDataReady s

end Sys2Proof.Machine
end

