-- ==== Sys2Proof/Machine/Present.lean ====
section
/-! DEFINITION. What happens when the idle block serves one act of the host (log 3). -/

namespace Sys2Proof.Machine

/-- A presented byte record: the request it holds is executed (log 1). -/
def serveRecord (record : List Byte) (s : State) : Host.Outcome State Fault Refusal :=
  match decodeRecord record with
  | .ok i => exec i s
  | .error e => .refused (.malformedRecord e)

/-- Reset of an idle block (70_reset_and_hazards.md R270, R271): the configuration is latched, every element takes its
reset value, no transport call is made. What lies outside the block stays as it is (R272, log 16). Reset of a busy
block is refused (R273). -/
def serveReset (addr : BusAddr) (enforce : Bool) (s : State) : Host.Outcome State Fault Refusal :=
  if s.busy then .refused .resetWhileBusy
  else .next { State.resetWith addr enforce with
    host := s.host, writeAnswers := s.writeAnswers, readAnswers := s.readAnswers, wire := s.wire, freeIx := s.freeIx }

/-- One act of the host. -/
def serve (a : HostAction) (s : State) : Host.Outcome State Fault Refusal :=
  match a with
  | .request record => serveRecord record s
  | .startPeriodic => callStartPeriodic s
  | .softReset => .next (callSoftReset s)
  | .setLowPower b => .next { s with modeLowPower := b }
  | .setSingleShot b => .next { s with modeSingleShot := b }
  | .reset addr enforce => serveReset addr enforce s

end Sys2Proof.Machine
end

