-- ==== Sys2Proof/Machine/Step.lean ====
section
/-! DEFINITION. One step of the machine. An idle block serves the host's next act, whole (00_scope.md R12, log 17), or
waits when there is none (10_state.md R39). A block whose operation hangs in a transport call makes the next move of
`PH` (43_execute.md Table R191), which without an answer leaves it where it is (20_memory.md R64). -/

namespace Sys2Proof.Machine

def step (s : State) : Host.Outcome State Fault Refusal :=
  match s.ph with
  | .idle =>
    match s.host with
    | [] => .next s
    | a :: rest => serve a { s with host := rest }
  | _ => phaseStep s

/-- `s` with the request of an opcode-table word as the host's very next act, the block idle so that it is served at
once (log 3). -/
def State.withFetchWord (s : State) (nbits w : Nat) : State :=
  { s with ph := .idle, busy := false, host := .request (tableRecord nbits w) :: s.host }

end Sys2Proof.Machine
end

