-- ==== Sys2Proof/Safety.lean ====
section
/-! DEFINITION. What counts as a good state and a good trace, in the terms the statements use. -/

namespace Sys2Proof.Machine

/-- Whether an instruction is a catalogue call. -/
def isCatalog : Instr → Bool
  | .csum _ => false
  | .frame _ _ => false
  | .valid _ => false
  | .exec _ _ _ _ => false
  | _ => true

/-- The event of the wait of step 4, none when the wait is 0 (43_execute.md R185). -/
def waitEvents (wait : Nat) : List Event := if wait = 0 then [] else [.wait wait]

/-- The events of steps 3 and 4 after a successful write (20_memory.md R66). -/
def commandEvents (a : BusAddr) (d : Desc) : List Event := .write a (frame d.op d.pay) .ok :: waitEvents d.wait

/-- Where the trace stands inside an EXEC: between operations, after a successful write, after the wait. -/
inductive TraceAt where
  | between
  | written
  | waited
  deriving DecidableEq, Repr

/-- A command frame has the length 2 + 3n (41_serialize.md R146). -/
def frameLength (n : Nat) : Bool := decide (2 ≤ n) && ((n - 2) % 3 == 0)

/-- A read outcome within the transport's contract: at most `n` bytes (20_memory.md R62). -/
def ReadOutcome.within (n : Nat) : ReadOutcome → Bool
  | .bytes bs => decide (bs.length ≤ n)
  | .short => true
  | .err _ => true

/-- One event after another (20_memory.md R66): a wait only right after a successful write, and of a non-zero time; a
read only after a successful write or its wait, of a positive multiple of 3; every transport call names device `a`. -/
def traceNext (a : BusAddr) (t : TraceAt) (e : Event) : Option TraceAt :=
  match e with
  | .write a' bs o =>
    if a' = a ∧ frameLength bs.length = true then some (match o with | .ok => .written | .err _ => .between) else none
  | .wait ms => if t = .written ∧ ms ≠ 0 then some .waited else none
  | .read a' n o =>
    if t ≠ .between ∧ a' = a ∧ n ≠ 0 ∧ n % 3 = 0 ∧ o.within n = true then some .between else none

/-- Reads a trace from a starting point; none when an event stands where it may not. -/
def traceFrom (a : BusAddr) (t : TraceAt) (ev : List Event) : Option TraceAt :=
  ev.foldlM (traceNext a) t

/-- Where the whole trace ends. -/
def traceEnd (a : BusAddr) (ev : List Event) : Option TraceAt := traceFrom a .between ev

/-- `TX` while an EXEC is in a given phase (43_execute.md R182, R183). -/
def txInPhase (d : Desc) : Phase → List Byte
  | .idle => []
  | .s1 => []
  | .s2 => ser16 d.op
  | _ => frame d.op d.pay

/-- Whether `RX` is as a given phase of an EXEC leaves it (43_execute.md R187). -/
def rxInPhase (d : Desc) (rx : List Byte) : Phase → Prop
  | .idle => True
  | .s7 => rx.length = d.rlen ∧ d.rlen ≠ 0
  | .s8 => rx.length = d.rlen ∧ d.rlen ≠ 0
  | _ => rx = []

/-- Where the trace stands in a given phase of an EXEC (20_memory.md R66). -/
def traceInPhase (d : Desc) (t : Option TraceAt) : Phase → Prop
  | .s4 => t = some .written
  | .s5 => t = some (if d.wait = 0 then .written else .waited)
  | .s6 => d.rlen ≠ 0 ∧ t = some (if d.wait = 0 then .written else .waited)
  | .s7 => t = some .between
  | .s8 => t = some .between
  | _ => t ≠ none

/-- The invariant of the machine. -/
structure State.Inv (s : State) : Prop where
  /-- `BUSY` equals `PH ≠ IDLE` (10_state.md R34). -/
  busy_iff    : s.busy = true ↔ s.ph ≠ .idle
  /-- No result is pending while an operation is in progress (10_state.md R33). -/
  no_result   : s.ph ≠ .idle → s.res = none ∧ s.ret = none
  /-- A recipe waits only for an EXEC in progress, whose response length is the recipe's (44_catalog.md R210). -/
  recipe      : ∀ d, s.decoder = some d → s.ph ≠ .idle ∧ s.desc.rlen = d.rlen
  /-- The response length of an EXEC in progress is a multiple of 3 (43_execute.md R181). -/
  rlen_mod    : s.ph ≠ .idle → s.desc.rlen % 3 = 0
  /-- `TX` is the frame as far as it is built. -/
  tx_phase    : s.ph ≠ .idle → s.tx = txInPhase s.desc s.ph
  /-- `RX` is empty before the read and complete after it. -/
  rx_phase    : rxInPhase s.desc s.rx s.ph
  /-- The two lists have equal length (10_state.md R32). -/
  lists       : s.rcvs.length = s.calcs.length
  /-- The two lists are empty before step 7 has run (43_execute.md R188). -/
  lists_phase : s.ph ≠ .idle → s.ph ≠ .s8 → s.rcvs = [] ∧ s.calcs = []
  /-- A response that passed step 7 under enforcement is valid (43_execute.md R188). -/
  validated   : s.ph = .s8 → s.cfgEnforce = true → validate s.rx = .valid
  /-- The trace is made of whole operations and the one in progress (20_memory.md R66). -/
  trace       : traceInPhase s.desc (traceEnd s.cfgAddr s.ev) s.ph

end Sys2Proof.Machine
end

