-- ==== Sys2Proof/Certificates/Slice0/Obligations.lean ====
section
/-! DEFINITION. The statements for the provers. Each docstring names the rule of the spec it formalises; what rests on
the model's own choice names the log entry. -/

namespace Sys2Proof.Claims

open Sys2Proof.Machine

/-- The error pattern `e` of 24 bits, laid over a block as `{hi, lo, c}`, flips the bits where it is 1
(40_checksum.md R124). -/
def flipBits (b : Block) (e : BitVec 24) : Block :=
  ⟨b.b0 ^^^ e.extractLsb' 16 8, b.b1 ^^^ e.extractLsb' 8 8, b.c ^^^ e.extractLsb' 0 8⟩

/-- How many bits an error pattern flips. -/
def weight (e : BitVec 24) : Nat := (List.range 24).countP fun i => e.getLsbD i

/-- All flipped bits lie within eight consecutive positions. -/
def isBurst (e : BitVec 24) : Prop := ∃ (p : Byte) (k : Nat), e = (p.zeroExtend 24) <<< k

/-- The state after an operation has delivered `r`: idle, the pending result `r`, the host value `ret`, and the scratch
elements as an EXEC with descriptor `d` whose read brought nothing leaves them. The configuration, the mode flags and
all that lies outside the block are those of `s`. That scratch elements keep their contents after delivery is log 12. -/
def done (s : State) (d : Desc) (acc : Byte) (r : Result) (ret : Option HostResult) : State :=
  { s with
    busy := false, ph := .idle, desc := d, tx := frame d.op d.pay, rx := [], rcvs := [], calcs := [], acc := acc
    res := some r, ret := ret, decoder := none }

/-- The two checksum lists as step 7 leaves them: filled when validation is enforced, else empty. -/
def listsAfter (enforce : Bool) (bs : List Byte) : List Byte × List Byte :=
  if enforce then (rcvOf bs, calcOf bs) else ([], [])

/-- The state after an EXEC whose write and read were answered and whose `RX` is `rx`: as `done`, with the read events
and the answers consumed. -/
def doneRead (s : State) (d : Desc) (acc : Byte) (r : Result) (ret : Option HostResult) (rx : List Byte)
    (lists : List Byte × List Byte) (o : ReadOutcome) (ws : List WriteAnswer) (rs : List ReadOutcome) : State :=
  { done s d acc r ret with
    rx := rx, rcvs := lists.1, calcs := lists.2
    writeAnswers := ws, readAnswers := rs
    ev := s.ev ++ commandEvents s.cfgAddr d ++ [.read s.cfgAddr d.rlen o]
    wire := s.wire ++ [(s.cfgAddr, frame d.op d.pay)] }

/-- The state after an EXEC that ends at step 5. -/
def doneCommand (s : State) (d : Desc) (acc : Byte) (ret : Option HostResult) (ws : List WriteAnswer) : State :=
  { done s d acc (.ok .nothing) ret with
    writeAnswers := ws
    ev := s.ev ++ commandEvents s.cfgAddr d
    wire := s.wire ++ [(s.cfgAddr, frame d.op d.pay)] }

/-- Configuration and mode flags are the same in both states. -/
def sameConfiguration (s t : State) : Prop :=
  t.cfgAddr = s.cfgAddr ∧ t.cfgEnforce = s.cfgEnforce ∧ t.modeLowPower = s.modeLowPower
  ∧ t.modeSingleShot = s.modeSingleShot

/-- The error a read outcome ends a read of `rlen` bytes with, none when it delivers the full length
(43_execute.md R187). -/
def failedRead (rlen : Nat) : ReadOutcome → Option OpError
  | .err e => some (.transportError e)
  | .short => some (.shortResponse rlen .signalled)
  | .bytes bs => if bs.length < rlen then some (.shortResponse rlen (.received bs.length)) else none

/-- How an EXEC ends according to the pseudocode of 43_execute.md R190. -/
inductive Ending where
  /-- With a result, having caused these events. -/
  | ends (r : Result) (es : List Event)
  /-- In a transport call that has not returned, in this phase. -/
  | hangs (ph : Phase) (es : List Event)
  /-- Outside the transport's contract (20_memory.md R62). -/
  | refused
  deriving DecidableEq, Repr

/-- 43_execute.md R190 read line by line: from the configuration, the descriptor and the answers to the write and the
read (none: the call never returns) to the ending. -/
def pseudocode (a : BusAddr) (enforce : Bool) (d : Desc) (w : Option WriteOutcome) (r : Option ReadOutcome) : Ending :=
  let tx := ser16 d.op ++ d.pay.flatMap fun p => ser16 p ++ [crc8 (ser16 p)]
  match w with
  | none => .hangs .s3 []
  | some (.err e) => .ends (.err (.transportError e)) [.write a tx (.err e)]
  | some .ok =>
    let es := [Event.write a tx .ok] ++ (if d.wait ≠ 0 then [.wait d.wait] else [])
    if d.rlen = 0 then .ends (.ok .nothing) es
    else match r with
      | none => .hangs .s6 es
      | some (.err e) => .ends (.err (.transportError e)) (es ++ [.read a d.rlen (.err e)])
      | some .short => .ends (.err (.shortResponse d.rlen .signalled)) (es ++ [.read a d.rlen .short])
      | some (.bytes bs) =>
        let es' := es ++ [.read a d.rlen (.bytes bs)]
        if bs.length < d.rlen then .ends (.err (.shortResponse d.rlen (.received bs.length))) es'
        else if d.rlen < bs.length then .refused
        else if enforce ∧ rcvOf bs ≠ calcOf bs then .ends (.err (.checksumMismatch (rcvOf bs) (calcOf bs))) es'
        else .ends (.ok (.bytes bs)) es'

/-- The descriptor and the decode of each catalogue call (44_catalog.md R211 to R222, 30_encoding.md Table R89); none
where the call is refused, and where the word of set_temperature_offset is a free value. -/
def recipe : Instr → Option (Desc × Decoder)
  | .csum _ => none
  | .frame _ _ => none
  | .valid _ => none
  | .exec _ _ _ _ => none
  | .saveConfig => some (⟨0x3615, [], 800, 0⟩, .nothing)
  | .getId => some (⟨0x3682, [], 1, 9⟩, .triple)
  | .execSelfTest => some (⟨0x3639, [], 10000, 3⟩, .isZero)
  | .reinit => some (⟨0x3646, [], 20, 0⟩, .nothing)
  | .setTemperatureOffset q =>
    if offsetIsTie q then none else (encodeOffset false q).map fun p => (⟨0x241D, [p], 1, 0⟩, .nothing)
  | .getTemperatureOffset => some (⟨0x2318, [], 1, 3⟩, .celsius)
  | .setAltitude q => (encodeAltitude q).map fun p => (⟨0x2427, [p], 1, 0⟩, .nothing)
  | .getAltitude => some (⟨0x2322, [], 1, 3⟩, .meters)
  | .setAmbientPressure q => (encodePressure q).map fun p => (⟨0xE000, [p], 1, 0⟩, .nothing)
  | .periodicMeasurementStartLowPower => some (⟨0x21AC, [], 0, 0⟩, .nothing)
  | .periodicMeasurementStartNormal => some (⟨0x21B1, [], 0, 0⟩, .nothing)
  | .periodicMeasurementStop w => if w ≤ 500 then some (⟨0x3F86, [], w, 0⟩, .nothing) else none
  | .isDataReady => some (⟨0xE4B8, [], 1, 3⟩, .ready)

/-- The calls without argument and without response: opcode and wait (44_catalog.md R211, R214, R220). -/
def plainCommands : List (Instr × Word × Nat) :=
  [(.saveConfig, 0x3615, 800), (.reinit, 0x3646, 20),
   (.periodicMeasurementStartLowPower, 0x21AC, 0), (.periodicMeasurementStartNormal, 0x21B1, 0)]

/-- The calls that read one word: opcode, wait and the value of the word (44_catalog.md R213, R216, R218, R222). -/
def oneWordQueries (w : Word) : List (Instr × Word × Nat × HostValue) :=
  [(.execSelfTest, 0x3639, 10000, .flag (decide (w = 0))),
   (.getTemperatureOffset, 0x2318, 1, .number ⟨175 * (w.toNat : Int), 65535⟩),
   (.getAltitude, 0x2322, 1, .number ⟨(w.toNat : Int), 0⟩),
   (.isDataReady, 0xE4B8, 1, .flag (decide (w.toNat % 2048 ≠ 0)))]

end Sys2Proof.Claims

open Sys2Proof Sys2Proof.Machine Sys2Proof.Claims

/-! ### The checksum (40_checksum.md) -/

/-- R116: the initial value, the bytes in sequence order, and the word's two bytes in wire order. -/
def Obligations.CrcOfSequence : Prop :=
  crc8 [] = 0xFF
  ∧ (∀ s b, crc8 (s ++ [b]) = crc8Byte (crc8 s) b)
  ∧ ∀ w : Word, crc8 (ser16 w) = crc8Byte (crc8Byte 0xFF (w.extractLsb' 8 8)) (w.extractLsb' 0 8)

/-- R114, bit by bit. -/
def Obligations.CrcBitStepFormulas : Prop :=
  ∀ (a : Byte) (d : Bool),
    (crc8Bit a d)[0] = xor a[7] d ∧ (crc8Bit a d)[1] = a[0] ∧ (crc8Bit a d)[2] = a[1] ∧ (crc8Bit a d)[3] = a[2]
    ∧ (crc8Bit a d)[4] = xor a[3] (xor a[7] d) ∧ (crc8Bit a d)[5] = xor a[4] (xor a[7] d)
    ∧ (crc8Bit a d)[6] = a[5] ∧ (crc8Bit a d)[7] = a[6]

/-- R120: the byte step is eight bit steps, the input bits most significant first. -/
def Obligations.CrcSerialFormAgrees : Prop :=
  ∀ a b : Byte, crc8Byte a b =
    crc8Bit (crc8Bit (crc8Bit (crc8Bit (crc8Bit (crc8Bit (crc8Bit (crc8Bit a b[7]) b[6]) b[5]) b[4]) b[3]) b[2]) b[1]) b[0]

/-- R121: the table form, with the entries the rule lists. -/
def Obligations.CrcTableFormAgrees : Prop :=
  (∀ a b : Byte, crc8Byte a b = crcTable (a ^^^ b))
  ∧ [0x00, 0x01, 0x02, 0x03, 0x04, 0x05, 0x06, 0x07].map crcTable = [0x00, 0x31, 0x62, 0x53, 0xC4, 0xF5, 0xA6, 0x97]
  ∧ crcTable 0xFF = 0xAC

/-- R122: the parallel form, bit by bit. -/
def Obligations.CrcParallelFormAgrees : Prop :=
  ∀ a b : Byte, let t := a ^^^ b; let n := crc8Byte a b
    n[7] = xor (xor t[5] t[3]) t[2]
    ∧ n[6] = xor (xor (xor t[7] t[4]) t[2]) t[1]
    ∧ n[5] = xor (xor (xor (xor t[7] t[6]) t[3]) t[1]) t[0]
    ∧ n[4] = xor (xor (xor t[7] t[6]) t[3]) t[0]
    ∧ n[3] = xor (xor t[7] t[6]) t[3]
    ∧ n[2] = xor (xor t[6] t[5]) t[2]
    ∧ n[1] = xor (xor (xor t[7] t[5]) t[4]) t[1]
    ∧ n[0] = xor (xor (xor t[6] t[4]) t[3]) t[0]

/-- R123: a sequence with its own checksum leaves 0, and that is the validity of a block. -/
def Obligations.CrcResidueIsZero : Prop :=
  (∀ s, crc8 (s ++ [crc8 s]) = 0x00)
  ∧ ∀ b : Block, b.check = true ↔ crc8 [b.b0, b.b1, b.c] = 0x00

/-- R124 in part: a valid block with 1 to 3 bits flipped, with an odd number of bits flipped, or with a burst of at most
eight positions is not valid; the pattern 0x800023 of four bits goes undetected. -/
def Obligations.BlockErrorDetection : Prop :=
  (∀ (b : Block) (e : BitVec 24), b.check = true → e ≠ 0 → (weight e ≤ 3 ∨ weight e % 2 = 1 ∨ isBurst e) →
    (flipBits b e).check = false)
  ∧ ∀ b : Block, b.check = true → weight 0x800023 = 4 ∧ (flipBits b 0x800023).check = true

/-- R117: CSUM completes on every byte sequence, with its frame. That an acceptance empties the scratch buffers is
10_state.md R40; that they keep their contents afterwards is log 12. -/
def Obligations.CsumCompletes : Prop :=
  ∀ (bs : List Byte) (s : State), s.busy = false →
    exec (.csum bs) s = .next { s with
      ph := .idle, tx := [], rx := [], rcvs := [], calcs := [], acc := crc8 bs
      res := some (.ok (.byte (crc8 bs))), ret := none, decoder := none }

/-! ### Serialiser and frame (41_serialize.md, 30_encoding.md) -/

/-- R143: FRAME completes on every opcode and payload, with its frame (R40; that `TX` keeps its contents
after delivery is log 12). -/
def Obligations.FrameCompletes : Prop :=
  ∀ (op : Word) (pay : List Word) (s : State), s.busy = false →
    ∃ acc, exec (.frame op pay) s = .next { s with
      ph := .idle, tx := frame op pay, rx := [], rcvs := [], calcs := [], acc := acc
      res := some (.ok (.bytes (frame op pay))), ret := none, decoder := none }

/-- R83: length and every byte of the command frame. -/
def Obligations.FrameLayout : Prop :=
  ∀ (op : Word) (pay : List Word),
    (frame op pay).length = 2 + 3 * pay.length
    ∧ (frame op pay)[0]? = some (op.extractLsb' 8 8) ∧ (frame op pay)[1]? = some (op.extractLsb' 0 8)
    ∧ ∀ j p, pay[j]? = some p →
        (frame op pay)[2 + 3 * j]? = some (p.extractLsb' 8 8)
        ∧ (frame op pay)[3 + 3 * j]? = some (p.extractLsb' 0 8)
        ∧ (frame op pay)[4 + 3 * j]? = some (crc8 [p.extractLsb' 8 8, p.extractLsb' 0 8])

/-- R148: what the serialiser builds the validator accepts and reads back. -/
def Obligations.WordsRoundTrip : Prop :=
  (∀ w : Word, des16 (w.extractLsb' 8 8) (w.extractLsb' 0 8) = w)
  ∧ (∀ w : Word, partition (attach w) = [⟨w.extractLsb' 8 8, w.extractLsb' 0 8, crc8 (ser16 w)⟩]
      ∧ ∀ b ∈ partition (attach w), b.check = true)
  ∧ ∀ ws : List Word, words (ws.flatMap attach) = ws ∧ validate (ws.flatMap attach) = .valid

/-- 20_memory.md R53: reads and writes of one and two bytes, most significant byte first. -/
def Obligations.BufferAccesses : Prop :=
  (∀ (s : State) (a : Nat) (b0 : Byte), s.rx[a]? = some b0 → s.memRead a 1 = some b0.toNat
      ∧ ∀ b1, s.rx[a + 1]? = some b1 → s.memRead a 2 = some (b0.toNat * 256 + b1.toNat))
  ∧ (∀ (s : State) (a : Nat) (v : Word), a ≤ s.tx.length →
      (∃ tx, s.memWrite a 1 v = some { s with tx := tx } ∧ tx[a]? = some (v.extractLsb' 0 8)
        ∧ ∀ j, j ≠ a → tx[j]? = s.tx[j]?)
      ∧ ∃ tx, s.memWrite a 2 v = some { s with tx := tx } ∧ tx[a]? = some (v.extractLsb' 8 8)
        ∧ tx[a + 1]? = some (v.extractLsb' 0 8) ∧ ∀ j, j ≠ a → j ≠ a + 1 → tx[j]? = s.tx[j]?)
  ∧ ∀ w0 w1 w2 : Word, (serial48 w0 w1 w2).toNat = w0.toNat * 2 ^ 32 + w1.toNat * 2 ^ 16 + w2.toNat

/-! ### Validation (42_validate.md) -/

/-- R162 (with the words of R165): both lists and the words, entry by entry. -/
def Obligations.ValidationLists : Prop :=
  ∀ (buf : List Byte) (k : Nat), buf.length = 3 * k →
    (rcvOf buf).length = k ∧ (calcOf buf).length = k ∧ (words buf).length = k
    ∧ ∀ i b0 b1 c, buf[3 * i]? = some b0 → buf[3 * i + 1]? = some b1 → buf[3 * i + 2]? = some c →
        (rcvOf buf)[i]? = some c ∧ (calcOf buf)[i]? = some (crc8 [b0, b1]) ∧ (words buf)[i]? = some (des16 b0 b1)

/-- R168: the entries of a block depend only on its three bytes. -/
def Obligations.BlocksAreIndependent : Prop :=
  ∀ (x y : List Byte) (k j : Nat), x.length = 3 * k → y.length = 3 * k →
    x[3 * j]? = y[3 * j]? → x[3 * j + 1]? = y[3 * j + 1]? → x[3 * j + 2]? = y[3 * j + 2]? →
    (rcvOf x)[j]? = (rcvOf y)[j]? ∧ (calcOf x)[j]? = (calcOf y)[j]?

/-- R164: VALID on a valid buffer, on an invalid one and on a broken length (R93), whatever `CFG.ENFORCE` is
(R172). An acceptance empties the scratch buffers (10_state.md R40); that they keep their contents after delivery is
log 12. -/
def Obligations.ValidCompletes : Prop :=
  ∀ (buf : List Byte) (s : State), s.busy = false →
    (buf.length % 3 = 0 → ∃ acc, exec (.valid buf) s = .next { s with
      ph := .idle, tx := [], rx := buf, rcvs := rcvOf buf, calcs := calcOf buf, acc := acc
      res := some (if rcvOf buf = calcOf buf then .ok (.words (words buf))
                   else .err (.checksumMismatch (rcvOf buf) (calcOf buf)))
      ret := none, decoder := none })
    ∧ (buf.length % 3 ≠ 0 → exec (.valid buf) s = .refused .bufferLengthNotMultipleOf3)

/-! ### EXEC (43_execute.md) -/

/-- R182 and R183: steps 1 and 2 build the frame. -/
def Obligations.StepsOneAndTwoBuildFrame : Prop :=
  ∀ s : State,
    (s.ph = .s1 → phaseStep s = .next { s with tx := ser16 s.desc.op, ph := .s2 }
      ∧ ∃ acc, runPhases 2 s = .next { s with tx := frame s.desc.op s.desc.pay, acc := acc, ph := .s3 })
    ∧ (s.ph = .s2 → ∃ acc, phaseStep s = .next { s with tx := s.tx ++ s.desc.pay.flatMap attach, acc := acc, ph := .s3 })

/-- R184: step 3, one call carrying the whole frame; an error ends the operation; without an answer the block stays.
The answers as lists are log 4, what reached the device is log 23; that an unanswered write leaves `wire` as it was is the
model's choice (log 27). -/
def Obligations.StepThreeWrites : Prop :=
  ∀ s : State, s.ph = .s3 →
    (s.writeAnswers = [] → phaseStep s = .next s)
    ∧ (∀ rest, s.writeAnswers = .ok :: rest → phaseStep s = .next { s with
        writeAnswers := rest, ph := .s4
        ev := s.ev ++ [.write s.cfgAddr s.tx .ok], wire := s.wire ++ [(s.cfgAddr, s.tx)] })
    ∧ ∀ e k rest, s.writeAnswers = .err e k :: rest →
        phaseStep s = .next (raise (.transportError e) { s with
          writeAnswers := rest
          ev := s.ev ++ [.write s.cfgAddr s.tx (.err e)], wire := s.wire ++ [(s.cfgAddr, s.tx.take k)] })

/-- R185 and R186: the wait, and the end of an operation without a response. -/
def Obligations.StepsFourAndFive : Prop :=
  ∀ s : State,
    (s.ph = .s4 → phaseStep s = .next { s with
      ev := s.ev ++ (if s.desc.wait = 0 then [] else [.wait s.desc.wait]), ph := .s5 })
    ∧ (s.ph = .s5 → s.desc.rlen = 0 → phaseStep s = .next (deliver (.ok .nothing) s))
    ∧ (s.ph = .s5 → s.desc.rlen ≠ 0 → phaseStep s = .next { s with ph := .s6 })

/-- R187: step 6, the read and the length test, whatever `CFG.ENFORCE` is. Without an answer the block stays in S6
(20_memory.md R64, Table R191, log 4); more bytes than asked are refused (20_memory.md R62). -/
def Obligations.StepSixReads : Prop :=
  ∀ s : State, s.ph = .s6 →
    (s.readAnswers = [] → phaseStep s = .next s)
    ∧ ∀ o rest, s.readAnswers = o :: rest →
      let s' := { s with readAnswers := rest, ev := s.ev ++ [.read s.cfgAddr s.desc.rlen o] }
      (∀ e, o = .err e → phaseStep s = .next (raise (.transportError e) s'))
      ∧ (o = .short → phaseStep s = .next (raise (.shortResponse s.desc.rlen .signalled) s'))
      ∧ ∀ bs, o = .bytes bs →
        (bs.length < s.desc.rlen → phaseStep s = .next (raise (.shortResponse s.desc.rlen (.received bs.length)) s'))
        ∧ (bs.length = s.desc.rlen → phaseStep s = .next { s' with rx := bs, ph := .s7 })
        ∧ (s.desc.rlen < bs.length → phaseStep s = .refused .overlongRead)

/-- R188 and R189: step 7 validates when it is enforced and computes nothing otherwise; step 8 returns the raw buffer. -/
def Obligations.StepsSevenAndEight : Prop :=
  ∀ s : State,
    (s.ph = .s7 → s.cfgEnforce = false → phaseStep s = .next { s with ph := .s8 })
    ∧ (s.ph = .s7 → s.cfgEnforce = true → ∃ acc,
        let s' := { s with rcvs := rcvOf s.rx, calcs := calcOf s.rx, acc := acc }
        (rcvOf s.rx = calcOf s.rx → phaseStep s = .next { s' with ph := .s8 })
        ∧ (rcvOf s.rx ≠ calcOf s.rx →
            phaseStep s = .next (raise (.checksumMismatch (rcvOf s.rx) (calcOf s.rx)) s')))
    ∧ (s.ph = .s8 → phaseStep s = .next (deliver (.ok (.bytes s.rx)) s))

/-- 60_exceptions.md R250: what raising an error does, and that it does nothing else; and what delivering any result does
(10_state.md R40). The host's value `ret` is the model's (log 22). -/
def Obligations.RaiseOnlyEndsOperation : Prop :=
  (∀ (e : OpError) (s : State),
    raise e s = { s with
      res := some (.err e), ph := .idle, busy := false, decoder := none
      ret := match s.decoder with | none => none | some _ => some (.err e) })
  ∧ ∀ (r : Result) (s : State),
    deliver r s = { s with
      res := some r, ph := .idle, busy := false, decoder := none
      ret := match s.decoder with | none => none | some d => d.apply r }

/-- R190: EXEC as the pseudocode has it: result, events and where it hangs, for every descriptor within the
preconditions, every configuration and every answer of the environment; `CFG` and `MODE` are never written. A call without an
answer hangs (20_memory.md R64, log 4); more bytes than asked are refused (20_memory.md R62). -/
def Obligations.ExecFollowsPseudocode : Prop :=
  ∀ (d : Desc) (s : State), s.busy = false → d.rlen % 3 = 0 →
    match pseudocode s.cfgAddr s.cfgEnforce d (s.writeAnswers.head?.map WriteAnswer.outcome) s.readAnswers.head? with
    | .ends r es => ∃ t, exec (.exec d.op d.pay d.wait d.rlen) s = .next t
        ∧ t.res = some r ∧ t.ev = s.ev ++ es ∧ t.ph = .idle ∧ t.busy = false ∧ sameConfiguration s t
    | .hangs ph es => ∃ t, exec (.exec d.op d.pay d.wait d.rlen) s = .next t
        ∧ t.res = none ∧ t.ev = s.ev ++ es ∧ t.ph = ph ∧ t.busy = true ∧ sameConfiguration s t
    | .refused => exec (.exec d.op d.pay d.wait d.rlen) s = .refused .overlongRead

/-- R186: an EXEC without a response completes, with its frame; the configuration does not matter. -/
def Obligations.ExecFireAndForget : Prop :=
  ∀ (op : Word) (pay : List Word) (wait : Nat) (s : State) (ws : List WriteAnswer),
    s.busy = false → s.writeAnswers = .ok :: ws →
    ∃ acc, exec (.exec op pay wait 0) s = .next (doneCommand s ⟨op, pay, wait, 0⟩ acc none ws)

/-- A failed write ends EXEC with no wait and no read, with its frame; how much reached the device is the answer's. -/
def Obligations.ExecWriteFails : Prop :=
  ∀ (op : Word) (pay : List Word) (wait rlen : Nat) (s : State) (e : TransportFailure) (k : Nat) (ws : List WriteAnswer),
    s.busy = false → rlen % 3 = 0 → s.writeAnswers = .err e k :: ws →
    ∃ acc, exec (.exec op pay wait rlen) s = .next
      { done s ⟨op, pay, wait, rlen⟩ acc (.err (.transportError e)) none with
        writeAnswers := ws
        ev := s.ev ++ [.write s.cfgAddr (frame op pay) (.err e)]
        wire := s.wire ++ [(s.cfgAddr, (frame op pay).take k)] }

/-- 60_exceptions.md R241 and R243: a short read is ShortResponse with the pair, a failed read TransportError with the
transport's value, whatever `CFG.ENFORCE` is; the bytes are not kept; with the frame. -/
def Obligations.ExecFailedReads : Prop :=
  ∀ (op : Word) (pay : List Word) (wait rlen : Nat) (s : State) (o : ReadOutcome) (ws : List WriteAnswer)
    (rs : List ReadOutcome),
    s.busy = false → rlen % 3 = 0 → rlen ≠ 0 → s.writeAnswers = .ok :: ws → s.readAnswers = o :: rs →
    ∀ e, failedRead rlen o = some e → ∃ acc, exec (.exec op pay wait rlen) s = .next
      (doneRead s ⟨op, pay, wait, rlen⟩ acc (.err e) none [] ([], []) o ws rs)

/-- EXEC with a full response: the raw buffer when it is valid or validation is off, ChecksumMismatch with both full
lists when it is enforced and some block is bad; with its frame. -/
def Obligations.ExecFullRead : Prop :=
  ∀ (op : Word) (pay : List Word) (wait : Nat) (s : State) (bs : List Byte)
    (ws : List WriteAnswer) (rs : List ReadOutcome),
    s.busy = false → bs.length % 3 = 0 → bs ≠ [] → s.writeAnswers = .ok :: ws → s.readAnswers = .bytes bs :: rs →
    ∃ acc, exec (.exec op pay wait bs.length) s = .next
      (doneRead s ⟨op, pay, wait, bs.length⟩ acc
        (if s.cfgEnforce = true ∧ rcvOf bs ≠ calcOf bs then .err (.checksumMismatch (rcvOf bs) (calcOf bs))
         else .ok (.bytes bs))
        none bs (listsAfter s.cfgEnforce bs) (.bytes bs) ws rs)

/-- 20_memory.md R64: a call that does not return leaves the block in S3 or S6, busy, without a result, for any number
of further steps (an unanswered call is an empty list of answers, log 4). That `wire` shows no byte of a write that never
returns is the model's choice (log 27). -/
def Obligations.HungCallStaysForEver : Prop :=
  ∀ (op : Word) (pay : List Word) (wait rlen : Nat) (s : State), s.busy = false → rlen % 3 = 0 →
    (s.writeAnswers = [] → ∃ acc t, exec (.exec op pay wait rlen) s = .next t
      ∧ t = { s with busy := true, ph := .s3, desc := ⟨op, pay, wait, rlen⟩, tx := frame op pay, rx := [], rcvs := []
                     calcs := [], acc := acc, res := none, ret := none, decoder := none }
      ∧ ∀ n, Host.Core.run Sys2Proof.core n t = .next t)
    ∧ ∀ ws, s.writeAnswers = .ok :: ws → s.readAnswers = [] → rlen ≠ 0 →
      ∃ acc t, exec (.exec op pay wait rlen) s = .next t
      ∧ t = { s with busy := true, ph := .s6, desc := ⟨op, pay, wait, rlen⟩, tx := frame op pay, rx := [], rcvs := []
                     calcs := [], acc := acc, res := none, ret := none, decoder := none, writeAnswers := ws
                     ev := s.ev ++ commandEvents s.cfgAddr ⟨op, pay, wait, rlen⟩
                     wire := s.wire ++ [(s.cfgAddr, frame op pay)] }
      ∧ ∀ n, Host.Core.run Sys2Proof.core n t = .next t

/-- 00_scope.md R12: eight single steps of the machine from the accepted EXEC compose to the operation
(how much one step does is log 17). -/
def Obligations.PhasesComposeToExec : Prop :=
  ∀ (d : Desc) (s : State), s.busy = false → d.rlen % 3 = 0 → s.host = [] →
    Host.Core.run Sys2Proof.core 8 (acceptExec none d s) = exec (.exec d.op d.pay d.wait d.rlen) s

/-- R195: the enforcement setting changes neither the frame nor the events nor what is consumed; the results differ at
most by ChecksumMismatch in place of the raw buffer. -/
def Obligations.EnforcementOnlyGatesValidation : Prop :=
  ∀ (d : Desc) (s t u : State),
    exec (.exec d.op d.pay d.wait d.rlen) { s with cfgEnforce := false } = .next t →
    exec (.exec d.op d.pay d.wait d.rlen) { s with cfgEnforce := true } = .next u →
    u.ev = t.ev ∧ u.tx = t.tx ∧ u.wire = t.wire ∧ u.writeAnswers = t.writeAnswers ∧ u.readAnswers = t.readAnswers
    ∧ (u.res = t.res ∨ ∃ bs, rcvOf bs ≠ calcOf bs ∧ t.res = some (.ok (.bytes bs))
        ∧ u.res = some (.err (.checksumMismatch (rcvOf bs) (calcOf bs))))

/-! ### Every operation -/

/-- 70_reset_and_hazards.md R275: whatever is presented while `BUSY` = 1 is refused. -/
def Obligations.BusyRefusesEveryOperation : Prop :=
  ∀ (i : Instr) (s : State), s.busy = true → exec i s = .refused .busy

/-- Requests refused for their operands: a response length that is not a multiple of 3, which the spec refuses (R93), and
a stop wait above 500, which Table R9 only bounds and the model refuses (log 20). The capacities are unbounded in this
model (log 6). -/
def Obligations.BadOperandsRefused : Prop :=
  (∀ (op : Word) (pay : List Word) (wait rlen : Nat) (s : State), s.busy = false → rlen % 3 ≠ 0 →
    exec (.exec op pay wait rlen) s = .refused .responseLengthNotMultipleOf3)
  ∧ ∀ (w : Nat) (s : State), s.busy = false → 500 < w →
    exec (.periodicMeasurementStop w) s = .refused .stopWaitOutOfRange

/-- 10_state.md R26 and 60_exceptions.md R250: no operation writes the configuration or the mode flags, whether it ends
with a value or an error; the host's coming acts are untouched, and only set_temperature_offset moves the free-value
counter. -/
def Obligations.OperationsKeepConfiguration : Prop :=
  ∀ (i : Instr) (s t : State), exec i s = .next t →
    sameConfiguration s t ∧ t.host = s.host
    ∧ ((∀ q, i ≠ .setTemperatureOffset q) → t.freeIx = s.freeIx)

/-- 60_exceptions.md R252: every operation that runs either delivers exactly one result and leaves the block idle, or
hangs in a write or a read that has no answer. -/
def Obligations.OperationDeliversOrHangs : Prop :=
  ∀ (i : Instr) (s t : State), exec i s = .next t →
    (t.ph = .idle ∧ t.busy = false ∧ t.decoder = none ∧ t.res ≠ none)
    ∨ (t.busy = true ∧ t.res = none ∧ t.ret = none
        ∧ ((t.ph = .s3 ∧ t.writeAnswers = []) ∨ (t.ph = .s6 ∧ t.readAnswers = [])))

/-- 43_execute.md R192: what one operation adds to the trace: nothing, or one write, then at most one wait, then at most
one read, each only where the one before allows it. -/
def Obligations.OneOperationTrace : Prop :=
  ∀ (i : Instr) (s t : State), exec i s = .next t → ∃ es, t.ev = s.ev ++ es ∧
    (es = []
     ∨ ∃ op pay,
        (∃ e, es = [.write s.cfgAddr (frame op pay) (.err e)])
        ∨ ∃ wait, es = .write s.cfgAddr (frame op pay) .ok :: waitEvents wait
            ∨ ∃ rlen o, rlen ≠ 0 ∧ es = .write s.cfgAddr (frame op pay) .ok :: waitEvents wait ++ [.read s.cfgAddr rlen o])

/-- 10_state.md R40: what an operation delivers and does outside the block depends on nothing an earlier operation left
in the scratch elements. -/
def Obligations.ResultIndependentOfScratch : Prop :=
  ∀ (i : Instr) (s : State) (desc : Desc) (tx rx rcvs calcs : List Byte) (acc : Byte) (res : Option Result)
    (ret : Option HostResult) (dec : Option Decoder),
    let s' := { s with desc := desc, tx := tx, rx := rx, rcvs := rcvs, calcs := calcs, acc := acc, res := res
                       ret := ret, decoder := dec }
    (∀ r, exec i s = .refused r → exec i s' = .refused r)
    ∧ ∀ t, exec i s = .next t → ∃ t', exec i s' = .next t' ∧ t'.res = t.res ∧ t'.ret = t.ret ∧ t'.ev = t.ev
        ∧ t'.wire = t.wire ∧ t'.ph = t.ph ∧ t'.busy = t.busy ∧ t'.writeAnswers = t.writeAnswers
        ∧ t'.readAnswers = t.readAnswers

/-! ### The catalogue (44_catalog.md) -/

/-- R210: a catalogue call is the EXEC of its descriptor and, when that has delivered, its decode. The two start
rows run their own opcode whatever `MODE.LOW_POWER` is (log 21); the recipe that waits while an EXEC hangs is log 22. -/
def Obligations.CatalogIsRecipeOverExec : Prop :=
  ∀ (i : Instr) (d : Desc) (dec : Decoder) (s : State), recipe i = some (d, dec) →
    (∀ r, exec (.exec d.op d.pay d.wait d.rlen) s = .refused r → exec i s = .refused r)
    ∧ ∀ t, exec (.exec d.op d.pay d.wait d.rlen) s = .next t →
        exec i s = .next { t with
          decoder := if t.ph = .idle then none else some dec
          ret := match t.res with | none => none | some r => dec.apply r }

/-- R224 and R210: a catalogue call returns an error exactly when its EXEC ended in that same error, and once it has
completed it has returned an outcome: a decoded value, nothing, or an error. The field `ret` in which the returned outcome
stands is the model's bookkeeping (log 22). -/
def Obligations.CatalogReturnsItsOutcome : Prop :=
  ∀ (i : Instr) (s t : State), isCatalog i = true → exec i s = .next t →
    (∀ e, t.res = some (.err e) ↔ t.ret = some (.err e)) ∧ (t.ph = .idle → t.ret ≠ none)

/-- R211, R214, R220: save_config, reinit and the two starts complete; one write, the wait of the table, no read.
That each start row completes under either value of `MODE.LOW_POWER` is log 21; scratch contents are log 12. -/
def Obligations.PlainCommandsComplete : Prop :=
  ∀ p ∈ plainCommands, ∀ (s : State) (ws : List WriteAnswer), s.busy = false → s.writeAnswers = .ok :: ws →
    exec p.1 s = .next (doneCommand s ⟨p.2.1, [], p.2.2, 0⟩ s.acc (some (.ok .nothing)) ws)

/-- R221: the stop completes with every admissible `STOP_WAIT_MS` (an operand here, log 20). -/
def Obligations.StopCompletes : Prop :=
  ∀ (w : Nat) (s : State) (ws : List WriteAnswer), w ≤ 500 → s.busy = false → s.writeAnswers = .ok :: ws →
    exec (.periodicMeasurementStop w) s = .next (doneCommand s ⟨0x3F86, [], w, 0⟩ s.acc (some (.ok .nothing)) ws)

/-- R220 and 10_state.md R25: the call periodic_measurement(start=true) chooses its opcode by `MODE.LOW_POWER` and by
nothing else (a call of the host, log 21): with any answer of the transport, and with none, the step is the start
operation so chosen; where the write succeeds it ends as the rule says (scratch contents: log 12). -/
def Obligations.StartCallChoosesOpcode : Prop :=
  ∀ (s : State) (hs : List HostAction), s.ph = .idle → s.host = .startPeriodic :: hs →
    step s = exec (if s.modeLowPower then .periodicMeasurementStartLowPower else .periodicMeasurementStartNormal)
      { s with host := hs }
    ∧ ∀ ws, s.busy = false → s.writeAnswers = .ok :: ws →
      step s = .next { doneCommand s ⟨if s.modeLowPower then 0x21AC else 0x21B1, [], 0, 0⟩ s.acc
          (some (.ok .nothing)) ws with host := hs }

/-- R217: set_altitude of a whole number of metres from 0 to 65 535. -/
def Obligations.SetAltitudeCompletes : Prop :=
  ∀ (q : Quantity) (n : Nat) (s : State) (ws : List WriteAnswer),
    q.num = (n : Int) * (q.den : Int) → n ≤ 65535 → s.busy = false → s.writeAnswers = .ok :: ws →
    ∃ acc, exec (.setAltitude q) s = .next
      (doneCommand s ⟨0x2427, [BitVec.ofNat 16 n], 1, 0⟩ acc (some (.ok .nothing)) ws)

/-- R219: set_ambient_pressure sends floor(pressure / 100). -/
def Obligations.SetAmbientPressureCompletes : Prop :=
  ∀ (q : Quantity) (n : Nat) (s : State) (ws : List WriteAnswer),
    (n : Int) * 100 * (q.den : Int) ≤ q.num → q.num < ((n : Int) + 1) * 100 * (q.den : Int) → n ≤ 65535 →
    s.busy = false → s.writeAnswers = .ok :: ws →
    ∃ acc, exec (.setAmbientPressure q) s = .next
      (doneCommand s ⟨0xE000, [BitVec.ofNat 16 n], 1, 0⟩ acc (some (.ok .nothing)) ws)

/-- R215: set_temperature_offset sends the integer nearest to offset × 374.49142857. -/
def Obligations.SetTemperatureOffsetCompletes : Prop :=
  ∀ (q : Quantity) (n : Nat) (s : State) (ws : List WriteAnswer),
    (2 * (n : Int) - 1) * (q.den * 100000000) < 2 * (q.num * 37449142857) →
    2 * (q.num * 37449142857) < (2 * (n : Int) + 1) * (q.den * 100000000) → n ≤ 65535 →
    s.busy = false → s.writeAnswers = .ok :: ws →
    ∃ acc, exec (.setTemperatureOffset q) s = .next
      (doneCommand s ⟨0x241D, [BitVec.ofNat 16 n], 1, 0⟩ acc (some (.ok .nothing)) ws)

/-- R215 and 92_eei_decisions.md D21: at a tie the call takes one of the two neighbours, whichever the free value says: it
sends it when it is a word, the free-value counter moving on, and is refused when it is none (log 18). -/
def Obligations.TemperatureTieSendsNeighbour : Prop :=
  ∀ (q : Quantity) (n : Int) (s : State) (ws : List WriteAnswer),
    2 * (q.num * 37449142857) = (2 * n + 1) * (q.den * 100000000) →
    s.busy = false → s.writeAnswers = .ok :: ws →
    ∃ p : Int, (p = n ∨ p = n + 1)
      ∧ (0 ≤ p ∧ p ≤ 65535 → ∃ acc, exec (.setTemperatureOffset q) s = .next
          { doneCommand s ⟨0x241D, [BitVec.ofNat 16 p.toNat], 1, 0⟩ acc (some (.ok .nothing)) ws with
            freeIx := s.freeIx + 1 })
      ∧ (p < 0 ∨ 65535 < p → exec (.setTemperatureOffset q) s = .refused .notAWord)

/-- 92_eei_decisions.md D21: an encoding outside 0 to 65 535, and an altitude that is no integer, are refused. -/
def Obligations.NotAWordRefused : Prop :=
  ∀ (q : Quantity) (s : State), s.busy = false →
    ((q.num < 0 ∨ (65536 : Int) * (q.den : Int) ≤ q.num ∨ ∀ n : Int, q.num ≠ n * (q.den : Int)) →
      exec (.setAltitude q) s = .refused .notAWord)
    ∧ ((q.num < 0 ∨ (6553600 : Int) * (q.den : Int) ≤ q.num) → exec (.setAmbientPressure q) s = .refused .notAWord)
    ∧ ((2 * (q.num * 37449142857) < -1 * ((q.den : Int) * 100000000)
        ∨ (131071 : Int) * ((q.den : Int) * 100000000) < 2 * (q.num * 37449142857)) →
      exec (.setTemperatureOffset q) s = .refused .notAWord)

/-- R212: get_id returns the three words, when the checksums hold or are not enforced. -/
def Obligations.GetIdCompletes : Prop :=
  ∀ (s : State) (a0 a1 ac b0 b1 bc c0 c1 cc : Byte) (ws : List WriteAnswer) (rs : List ReadOutcome),
    s.busy = false → s.writeAnswers = .ok :: ws →
    s.readAnswers = .bytes [a0, a1, ac, b0, b1, bc, c0, c1, cc] :: rs →
    (s.cfgEnforce = true → ac = crc8 [a0, a1] ∧ bc = crc8 [b0, b1] ∧ cc = crc8 [c0, c1]) →
    ∃ acc, exec .getId s = .next
      (doneRead s ⟨0x3682, [], 1, 9⟩ acc (.ok (.bytes [a0, a1, ac, b0, b1, bc, c0, c1, cc]))
        (some (.ok (.triple (des16 a0 a1) (des16 b0 b1) (des16 c0 c1))))
        [a0, a1, ac, b0, b1, bc, c0, c1, cc] (listsAfter s.cfgEnforce [a0, a1, ac, b0, b1, bc, c0, c1, cc])
        (.bytes [a0, a1, ac, b0, b1, bc, c0, c1, cc]) ws rs)

/-- R213, R216, R218, R222: the calls that read one word complete with their decoded value, when the checksum holds or
is not enforced. -/
def Obligations.OneWordQueriesComplete : Prop :=
  ∀ (b0 b1 c : Byte), ∀ p ∈ oneWordQueries (des16 b0 b1),
    ∀ (s : State) (ws : List WriteAnswer) (rs : List ReadOutcome),
    s.busy = false → s.writeAnswers = .ok :: ws → s.readAnswers = .bytes [b0, b1, c] :: rs →
    (s.cfgEnforce = true → c = crc8 [b0, b1]) →
    ∃ acc, exec p.1 s = .next
      (doneRead s ⟨p.2.1, [], p.2.2.1, 3⟩ acc (.ok (.bytes [b0, b1, c])) (some (.ok p.2.2.2)) [b0, b1, c]
        (listsAfter s.cfgEnforce [b0, b1, c]) (.bytes [b0, b1, c]) ws rs)

/-- R216, the round trip for every offset, ties included: the decoded word lies within one quantum,
1 / 374.49142857, of the offset that was encoded. -/
def Obligations.OffsetRoundTripWithinQuantum : Prop :=
  ∀ (tie : Bool) (q : Quantity) (w : Word), encodeOffset tie q = some w →
    |((celsiusOf w).num * q.den - q.num * (celsiusOf w).den) * 37449142857|
      ≤ (celsiusOf w).den * q.den * (100000000 : Int)

/-- R223: soft_reset presents nothing: the block, the trace and the wire are untouched, and it returns nothing
(an act of the host, log 3, log 24). -/
def Obligations.SoftResetEmitsNothing : Prop :=
  ∀ (s : State) (hs : List HostAction), s.ph = .idle → s.host = .softReset :: hs →
    step s = .next { s with host := hs, ret := some (.ok .nothing) }

/-! ### Host, reset and step -/

/-- 10_state.md R24, R25: the host's writes of the mode flags change that flag and nothing else (acts of the host,
log 3). -/
def Obligations.ModeFlagWrites : Prop :=
  ∀ (s : State) (hs : List HostAction) (b : Bool), s.ph = .idle →
    (s.host = .setLowPower b :: hs → step s = .next { s with host := hs, modeLowPower := b })
    ∧ (s.host = .setSingleShot b :: hs → step s = .next { s with host := hs, modeSingleShot := b })

/-- 10_state.md R39: the reset values the spec gives, for any configuration inputs; the default address of the reset
machine. -/
def Obligations.ResetValues : Prop :=
  State.reset.cfgAddr = 0x62
  ∧ ∀ (a : BusAddr) (e : Bool), (State.resetWith a e).cfgAddr = a ∧ (State.resetWith a e).cfgEnforce = e
    ∧ (State.resetWith a e).ph = .idle ∧ (State.resetWith a e).busy = false
    ∧ (State.resetWith a e).tx = [] ∧ (State.resetWith a e).rx = []
    ∧ (State.resetWith a e).rcvs = [] ∧ (State.resetWith a e).calcs = []
    ∧ (State.resetWith a e).res = none ∧ (State.resetWith a e).ev = []

/-- 70_reset_and_hazards.md R270 and R273: reset latches the configuration inputs, makes no transport call and empties
the trace. That the inputs outside the block stay is log 16. A busy block is not reset: serving a reset is refused in
every busy state, and while an operation is in progress a step serves no reset, the configuration stays and the reset
keeps waiting (log 3). -/
def Obligations.HostResetLatchesConfiguration : Prop :=
  (∀ (s : State) (hs : List HostAction) (a : BusAddr) (e : Bool), s.host = .reset a e :: hs →
    (s.ph = .idle → s.busy = false → ∃ t, step s = .next t ∧ t.cfgAddr = a ∧ t.cfgEnforce = e ∧ t.ph = .idle
      ∧ t.busy = false ∧ t.tx = [] ∧ t.rx = [] ∧ t.rcvs = [] ∧ t.calcs = [] ∧ t.res = none ∧ t.ev = []
      ∧ t.host = hs ∧ t.writeAnswers = s.writeAnswers ∧ t.readAnswers = s.readAnswers ∧ t.wire = s.wire)
    ∧ (s.ph = .idle → s.busy = true → step s = .refused .resetWhileBusy)
    ∧ (s.ph ≠ .idle → ∀ t, step s = .next t → sameConfiguration s t ∧ t.host = s.host ∧ ∃ es, t.ev = s.ev ++ es))
  ∧ ∀ (a : BusAddr) (e : Bool) (s : State), s.busy = true → serveReset a e s = .refused .resetWhileBusy

/-- 70_reset_and_hazards.md R283 and 10_state.md R26: a step changes the configuration only by serving a reset. -/
def Obligations.OnlyResetChangesConfiguration : Prop :=
  ∀ (s t : State), step s = .next t → (t.cfgAddr ≠ s.cfgAddr ∨ t.cfgEnforce ≠ s.cfgEnforce) →
    s.ph = .idle ∧ ∃ a e hs, s.host = .reset a e :: hs ∧ t.cfgAddr = a ∧ t.cfgEnforce = e

/-- A step of an idle block runs the request at the head of the host's list (log 1, log 3); without a host act the block
waits; a record that is no request is refused. -/
def Obligations.StepRunsDecodedRequest : Prop :=
  ∀ s : State, s.ph = .idle →
    (s.host = [] → step s = .next s)
    ∧ ∀ record hs, s.host = .request record :: hs →
        (∀ i, decodeRecord record = .ok i → step s = exec i { s with host := hs })
        ∧ ∀ e, decodeRecord record = .error e → step s = .refused (.malformedRecord e)

/-- A table word placed for the fetch is the very next thing that runs (log 3). -/
def Obligations.FetchWordRunsNext : Prop :=
  ∀ (s : State) (nbits w : Nat) (i : Instr), decodeTableWord nbits w = some i →
    step (s.withFetchWord nbits w) = exec i { s with ph := .idle, busy := false }

/-- The words of spec/opcode_table.json decode to their rows, all seventeen (30_encoding.md R87, Table R89). The byte
layout and the operands of zeros by which they decode are the model's (log 1, log 2). -/
def Obligations.TableWordsDecode : Prop :=
  decodeTableWord 8 0x0 = some (.csum []) ∧ decodeTableWord 8 0x1 = some (.frame 0 [])
  ∧ decodeTableWord 8 0x2 = some (.valid []) ∧ decodeTableWord 8 0x3 = some (.exec 0 [] 0 0)
  ∧ decodeTableWord 16 0x3615 = some .saveConfig ∧ decodeTableWord 16 0x3682 = some .getId
  ∧ decodeTableWord 16 0x3639 = some .execSelfTest ∧ decodeTableWord 16 0x3646 = some .reinit
  ∧ decodeTableWord 16 0x241D = some (.setTemperatureOffset ⟨0, 0⟩)
  ∧ decodeTableWord 16 0x2318 = some .getTemperatureOffset
  ∧ decodeTableWord 16 0x2427 = some (.setAltitude ⟨0, 0⟩) ∧ decodeTableWord 16 0x2322 = some .getAltitude
  ∧ decodeTableWord 16 0xE000 = some (.setAmbientPressure ⟨0, 0⟩)
  ∧ decodeTableWord 16 0x21AC = some .periodicMeasurementStartLowPower
  ∧ decodeTableWord 16 0x21B1 = some .periodicMeasurementStartNormal
  ∧ decodeTableWord 16 0x3F86 = some (.periodicMeasurementStop 0)
  ∧ decodeTableWord 16 0xE4B8 = some .isDataReady

/-- Decoding an encoded request gives it back, whatever bytes follow (the byte record is the model's, log 1, log 2). -/
def Obligations.DecodeOfEncode : Prop :=
  ∀ (i : Instr) (rest : List Byte), decode (encode i ++ rest) = .ok (i, rest)

/-- Every request has one record: what decodes is the encoding of what it decodes to (log 1, log 2). -/
def Obligations.EncodeOfDecode : Prop :=
  ∀ (bs rest : List Byte) (i : Instr), decode bs = .ok (i, rest) → bs = encode i ++ rest

/-! ### The invariant -/

/-- The invariant holds after reset, with any configuration inputs. -/
def Obligations.InvariantAtReset : Prop :=
  State.reset.Inv ∧ ∀ (a : BusAddr) (e : Bool), (State.resetWith a e).Inv

/-- Every step keeps the invariant: `BUSY` is `PH ≠ IDLE`, the buffers are as the phase says, the trace is made of whole
operations that name the configured device, no result is pending in mid-operation. -/
def Obligations.StepKeepsInvariant : Prop :=
  ∀ s t : State, s.Inv → step s = .next t → t.Inv
end

