-- ==== Sys2Proof/Laws/Bytes.lean ====
section
/-! SUPPORT. Lemmas of the byte-order and buffer functions. -/

namespace Sys2Proof.Machine

@[simp] theorem ser16_length (w : Word) : (ser16 w).length = 2 := rfl

theorem ser16_def (w : Word) : ser16 w = [w.extractLsb' 8 8, w.extractLsb' 0 8] := rfl

theorem des16_toNat (b0 b1 : Byte) : (des16 b0 b1).toNat = b0.toNat * 256 + b1.toNat := by
  have h := b1.isLt
  have e : (des16 b0 b1).toNat = b0.toNat <<< 8 ||| b1.toNat := BitVec.toNat_append b0 b1
  rw [e, ← Nat.shiftLeft_add_eq_or_of_lt h, Nat.shiftLeft_eq]

@[simp] theorem des16_extract (w : Word) : des16 (w.extractLsb' 8 8) (w.extractLsb' 0 8) = w := by
  apply BitVec.eq_of_toNat_eq
  have := w.isLt
  simp only [des16_toNat, BitVec.extractLsb'_toNat, Nat.shiftRight_eq_div_pow]
  omega

@[simp] theorem extract_high_des16 (b0 b1 : Byte) : (des16 b0 b1).extractLsb' 8 8 = b0 := by
  apply BitVec.eq_of_toNat_eq
  have := b0.isLt; have := b1.isLt
  simp only [BitVec.extractLsb'_toNat, des16_toNat, Nat.shiftRight_eq_div_pow]
  omega

@[simp] theorem extract_low_des16 (b0 b1 : Byte) : (des16 b0 b1).extractLsb' 0 8 = b1 := by
  apply BitVec.eq_of_toNat_eq
  have := b0.isLt; have := b1.isLt
  simp only [BitVec.extractLsb'_toNat, des16_toNat, Nat.shiftRight_eq_div_pow]
  omega

@[simp] theorem ser16_des16 (b0 b1 : Byte) : ser16 (des16 b0 b1) = [b0, b1] := by simp [ser16_def]

theorem memReadWord_of_bytes {buf : List Byte} {a : Nat} {b0 b1 : Byte} (h0 : buf[a]? = some b0)
    (h1 : buf[a + 1]? = some b1) : memReadWord buf a = some (des16 b0 b1) := by
  simp [memReadWord, h0, h1]

/-- Everything a one-byte write within reach of the buffer does. -/
theorem memWriteByte_spec {buf : List Byte} {a : Nat} (v : Byte) (h : a ≤ buf.length) :
    ∃ out, memWriteByte buf a v = some out ∧ out[a]? = some v ∧ (∀ j, j ≠ a → out[j]? = buf[j]?)
      ∧ a + 1 ≤ out.length := by
  unfold memWriteByte
  split
  · next hlt =>
    refine ⟨_, rfl, by simp [hlt], fun j hj => ?_, by simpa using hlt⟩
    rw [List.getElem?_set_ne (Ne.symm hj)]
  · next hge =>
    have ha : a = buf.length := by omega
    subst ha
    refine ⟨buf ++ [v], by simp, by simp, fun j hj => ?_, by simp⟩
    by_cases hlt : j < buf.length
    · rw [List.getElem?_append_left hlt]
    · rw [List.getElem?_eq_none (by simp; omega), List.getElem?_eq_none (by omega)]

/-- A write beyond the end of the buffer has no value (log 25). -/
theorem memWriteByte_gap {buf : List Byte} {a : Nat} (v : Byte) (h : buf.length < a) :
    memWriteByte buf a v = none := by
  simp [memWriteByte, show ¬ a < buf.length by omega, show ¬ a = buf.length by omega]

end Sys2Proof.Machine
end

