-- ==== Sys2Proof/Laws/Crc.lean ====
section
/-! SUPPORT. Lemmas of the checksum: a shift round, a byte step and the sequence function. -/

namespace Sys2Proof.Machine

@[simp] theorem crc8_nil : crc8 [] = crcInit := rfl

theorem crc8_append (s t : List Byte) : crc8 (s ++ t) = t.foldl crc8Byte (crc8 s) := by
  simp [crc8, List.foldl_append]

theorem crc8_pair (b0 b1 : Byte) : crc8 [b0, b1] = crc8Byte (crc8Byte crcInit b0) b1 := rfl

/-- The byte step sees its two operands only through their exclusive-or. -/
theorem crc8Byte_eq_xor (a b : Byte) : crc8Byte a b = crc8Byte 0 (a ^^^ b) := by
  simp [crc8Byte]

@[simp] theorem crc8Byte_self (a : Byte) : crc8Byte a a = 0 := by
  rw [crc8Byte_eq_xor, BitVec.xor_self]; decide

/-- A shift round is linear over exclusive-or. -/
theorem crcRound_xor (x y : Byte) : crcRound (x ^^^ y) = crcRound x ^^^ crcRound y := by
  simp only [crcRound, BitVec.msb_xor, BitVec.shiftLeft_xor_distrib]
  cases x.msb <;> cases y.msb <;> simp <;> try ac_rfl
  rw [show x <<< 1 ^^^ crcPoly ^^^ (y <<< 1 ^^^ crcPoly) = x <<< 1 ^^^ y <<< 1 ^^^ (crcPoly ^^^ crcPoly) by ac_rfl]
  simp

/-- The byte step is linear over exclusive-or in both operands together. -/
theorem crc8Byte_xor (a a' b b' : Byte) : crc8Byte (a ^^^ a') (b ^^^ b') = crc8Byte a b ^^^ crc8Byte a' b' := by
  have h : a ^^^ a' ^^^ (b ^^^ b') = (a ^^^ b) ^^^ (a' ^^^ b') := by ac_rfl
  simp only [crc8Byte, h, crcRound_xor]

end Sys2Proof.Machine
end

