-- ==== Sys2Proof/Laws/Decode.lean ====
section
/-! SUPPORT. One lemma per reader of the byte record: reading what the encoder wrote, whatever follows. -/

namespace Sys2Proof

open Machine (ser16 des16 ser16_des16 des16_extract)

theorem decNat_encNatFuel (fuel n : Nat) (h : n ≤ fuel) (rest : List Byte) :
    decNat (encNatFuel fuel n ++ rest) = .ok (n, rest) := by
  induction fuel generalizing n with
  | zero => obtain rfl : n = 0 := by omega
            simp [encNatFuel, decNat]
  | succ fuel ih =>
    unfold encNatFuel
    split
    · next hn => simp [decNat, Nat.mod_eq_of_lt (show n < 256 by omega), hn]
    · next hn =>
      have h1 : (BitVec.ofNat 8 (n % 128 + 128)).toNat = n % 128 + 128 := by
        simp; omega
      simp only [List.cons_append, decNat, h1, show ¬ n % 128 + 128 < 128 by omega, if_false,
        ih (n / 128) (by omega), show n / 128 ≠ 0 by omega]
      simp; omega

@[simp] theorem decNat_encNat (n : Nat) (rest : List Byte) : decNat (encNat n ++ rest) = .ok (n, rest) :=
  decNat_encNatFuel n n (Nat.le_refl n) rest

@[simp] theorem decWord_ser16 (w : Word) (rest : List Byte) : decWord (ser16 w ++ rest) = .ok (w, rest) := by
  show Except.ok (des16 (w.extractLsb' 8 8) (w.extractLsb' 0 8), rest) = _
  rw [des16_extract]

@[simp] theorem decTake_append (bs rest : List Byte) : decTake bs.length (bs ++ rest) = .ok (bs, rest) := by
  induction bs with
  | nil => rfl
  | cons b bs ih => simp [decTake, ih]

@[simp] theorem decTakeWords_append (ws : List Word) (rest : List Byte) :
    decTakeWords ws.length (ws.flatMap ser16 ++ rest) = .ok (ws, rest) := by
  induction ws with
  | nil => rfl
  | cons w ws ih =>
    show (match decTakeWords ws.length (ws.flatMap ser16 ++ rest) with
      | .ok (us, rest') => Except.ok (des16 (w.extractLsb' 8 8) (w.extractLsb' 0 8) :: us, rest')
      | .error e => .error e) = _
    rw [ih, des16_extract]

@[simp] theorem decBytes_encBytes (bs rest : List Byte) : decBytes (encBytes bs ++ rest) = .ok (bs, rest) := by
  simp [decBytes, encBytes, List.append_assoc]

@[simp] theorem decWords_encWords (ws : List Word) (rest : List Byte) :
    decWords (encWords ws ++ rest) = .ok (ws, rest) := by
  simp [decWords, encWords, List.append_assoc]

@[simp] theorem decInt_encInt (z : Int) (rest : List Byte) : decInt (encInt z ++ rest) = .ok (z, rest) := by
  unfold encInt
  split
  · next h => simp [decInt]; omega
  · next h => simp [decInt, show (-z).toNat ≠ 0 by omega]; omega

@[simp] theorem decQuantity_encQuantity (q : Quantity) (rest : List Byte) :
    decQuantity (encQuantity q ++ rest) = .ok (q, rest) := by
  simp [decQuantity, encQuantity, List.append_assoc]

/-! ### What a reader has read was written by the encoder -/

theorem encNatFuel_stable (f n : Nat) (h : n ≤ f) : ∀ g, n ≤ g → encNatFuel f n = encNatFuel g n := by
  induction f generalizing n with
  | zero => intro g hg; obtain rfl : n = 0 := by omega
            cases g <;> simp [encNatFuel]
  | succ f ih =>
    intro g hg
    cases g with
    | zero => obtain rfl : n = 0 := by omega
              simp [encNatFuel]
    | succ g =>
      unfold encNatFuel
      split
      · rfl
      · rw [ih (n/128) (by omega) g (by omega)]

theorem encNat_of_big (n : Nat) (h : ¬ n < 128) : encNat n = BitVec.ofNat 8 (n % 128 + 128) :: encNat (n/128) := by
  obtain ⟨m, rfl⟩ : ∃ m, n = m + 1 := ⟨n-1, by omega⟩
  unfold encNat
  conv_lhs => unfold encNatFuel
  rw [if_neg h, encNatFuel_stable m _ (by omega) _ (Nat.le_refl _)]

theorem eq_encNat_of_decNat : ∀ (bs : List Byte) (n : Nat) (rest : List Byte), decNat bs = .ok (n, rest) → bs = encNat n ++ rest := by
  intro bs
  induction bs with
  | nil => intro n rest h; simp [decNat] at h
  | cons b bs ih =>
    intro n rest h
    unfold decNat at h
    split at h
    · next hb =>
      cases h
      have : encNat b.toNat = [b] := by
        unfold encNat
        cases hn : b.toNat with
        | zero => simp [encNatFuel]; apply BitVec.eq_of_toNat_eq; simp [hn]
        | succ m => simp [encNatFuel, show m + 1 < 128 by omega]; rw [← hn]; simp
      simp [this]
    · next hb =>
      split at h
      · next m r hm =>
        split at h
        · cases h
        · next h0 =>
          cases h
          have hlt := b.isLt
          rw [encNat_of_big _ (by omega), ih m rest hm]
          rw [show (b.toNat - 128 + 128 * m) % 128 + 128 = b.toNat by omega, show (b.toNat - 128 + 128 * m) / 128 = m by omega]
          simp
      · cases h

theorem eq_ser16_of_decWord (bs w rest) (h : decWord bs = .ok (w, rest)) : bs = ser16 w ++ rest := by
  unfold decWord at h
  split at h
  · cases h; simp
  · cases h

theorem eq_append_of_decTake (n : Nat) : ∀ bs t rest, decTake n bs = .ok (t, rest) → bs = t ++ rest ∧ t.length = n := by
  induction n with
  | zero => intro bs t rest h; simp [decTake] at h; obtain ⟨rfl, rfl⟩ := h; simp
  | succ n ih =>
    intro bs t rest h
    cases bs with
    | nil => simp [decTake] at h
    | cons b bs =>
      simp only [decTake] at h
      split at h
      · next t' r' h' => cases h; obtain ⟨rfl, rfl⟩ := ih _ _ _ h'; simp
      · cases h

theorem eq_append_of_decTakeWords (n : Nat) : ∀ bs t rest, decTakeWords n bs = .ok (t, rest) → bs = t.flatMap ser16 ++ rest ∧ t.length = n := by
  induction n with
  | zero => intro bs t rest h; simp [decTakeWords] at h; obtain ⟨rfl, rfl⟩ := h; simp
  | succ n ih =>
    intro bs t rest h
    simp only [decTakeWords] at h
    split at h
    · split at h
      · next t' r' h' => cases h; obtain ⟨rfl, rfl⟩ := ih _ _ _ h'; simp
      · cases h
    · cases h

theorem eq_encBytes_of_decBytes (bs t rest) (h : decBytes bs = .ok (t, rest)) : bs = encBytes t ++ rest := by
  unfold decBytes at h
  split at h
  · next n r hn =>
    have := eq_encNat_of_decNat _ _ _ hn
    obtain ⟨rfl, rfl⟩ := eq_append_of_decTake _ _ _ _ h
    rw [this]; simp [encBytes]
  · cases h

theorem eq_encWords_of_decWords (bs t rest) (h : decWords bs = .ok (t, rest)) : bs = encWords t ++ rest := by
  unfold decWords at h
  split at h
  · next n r hn =>
    have := eq_encNat_of_decNat _ _ _ hn
    obtain ⟨rfl, rfl⟩ := eq_append_of_decTakeWords _ _ _ _ h
    rw [this]; simp [encWords]
  · cases h

theorem eq_encInt_of_decInt (bs z rest) (h : decInt bs = .ok (z, rest)) : bs = encInt z ++ rest := by
  unfold decInt at h
  split at h
  · cases h
  · split at h
    · next hs =>
      split at h
      · next m r hm =>
        have := eq_encNat_of_decNat _ _ _ hm
        split at h
        · next h0 => cases h; subst h0; simp [encInt, this]
        · next h0 =>
          obtain rfl := hs.resolve_left h0
          split at h
          · cases h
          · next h1 => cases h; rw [this]; simp [encInt, show m ≠ 0 from h1]
      · cases h
    · cases h

theorem eq_encQuantity_of_decQuantity (bs q rest) (h : decQuantity bs = .ok (q, rest)) : bs = encQuantity q ++ rest := by
  unfold decQuantity at h
  split at h
  · next n r hn =>
    split at h
    · next d r' hd =>
      cases h
      have h1 := eq_encInt_of_decInt _ _ _ hn
      have h2 := eq_encNat_of_decNat _ _ _ hd
      subst h2; rw [h1]; simp [encQuantity]
    · cases h
  · cases h

theorem exists_of_map_ok {α : Type} {x : Except DecodeError (α × List Byte)} {f : α × List Byte → Instr × List Byte} {i rest}
   (h : x.map f = .ok (i, rest)) : ∃ p, x = .ok p ∧ f p = (i, rest) := by
  cases x with
  | error e => cases h
  | ok p => exact ⟨p, rfl, by simpa [Except.map] using h⟩

theorem eq_encode_of_decCatalog (b0 b1 bs i rest) (h : decCatalog b0 b1 bs = .ok (i, rest)) : b0 :: b1 :: bs = encode i ++ rest := by
  have e : b0 :: b1 :: bs = ser16 (des16 b0 b1) ++ bs := by simp
  rw [e]
  unfold decCatalog at h
  dsimp only at h
  generalize des16 b0 b1 = op at h ⊢
  by_cases hh : op = Machine.opSaveConfig
  · rw [if_pos hh] at h; rw [hh]; cases h; rfl
  rw [if_neg hh] at h; clear hh
  by_cases hh : op = Machine.opGetId
  · rw [if_pos hh] at h; rw [hh]; cases h; rfl
  rw [if_neg hh] at h; clear hh
  by_cases hh : op = Machine.opExecSelfTest
  · rw [if_pos hh] at h; rw [hh]; cases h; rfl
  rw [if_neg hh] at h; clear hh
  by_cases hh : op = Machine.opReinit
  · rw [if_pos hh] at h; rw [hh]; cases h; rfl
  rw [if_neg hh] at h; clear hh
  by_cases hh : op = Machine.opSetTemperatureOffset
  · rw [if_pos hh] at h; rw [hh]; obtain ⟨p, hp, hf⟩ := exists_of_map_ok h; cases hf; rw [eq_encQuantity_of_decQuantity _ _ _ hp]; exact (List.append_assoc _ _ _).symm
  rw [if_neg hh] at h; clear hh
  by_cases hh : op = Machine.opGetTemperatureOffset
  · rw [if_pos hh] at h; rw [hh]; cases h; rfl
  rw [if_neg hh] at h; clear hh
  by_cases hh : op = Machine.opSetAltitude
  · rw [if_pos hh] at h; rw [hh]; obtain ⟨p, hp, hf⟩ := exists_of_map_ok h; cases hf; rw [eq_encQuantity_of_decQuantity _ _ _ hp]; exact (List.append_assoc _ _ _).symm
  rw [if_neg hh] at h; clear hh
  by_cases hh : op = Machine.opGetAltitude
  · rw [if_pos hh] at h; rw [hh]; cases h; rfl
  rw [if_neg hh] at h; clear hh
  by_cases hh : op = Machine.opSetAmbientPressure
  · rw [if_pos hh] at h; rw [hh]; obtain ⟨p, hp, hf⟩ := exists_of_map_ok h; cases hf; rw [eq_encQuantity_of_decQuantity _ _ _ hp]; exact (List.append_assoc _ _ _).symm
  rw [if_neg hh] at h; clear hh
  by_cases hh : op = Machine.opStartLowPower
  · rw [if_pos hh] at h; rw [hh]; cases h; rfl
  rw [if_neg hh] at h; clear hh
  by_cases hh : op = Machine.opStartNormal
  · rw [if_pos hh] at h; rw [hh]; cases h; rfl
  rw [if_neg hh] at h; clear hh
  by_cases hh : op = Machine.opStop
  · rw [if_pos hh] at h; rw [hh]; obtain ⟨p, hp, hf⟩ := exists_of_map_ok h; cases hf; rw [eq_encNat_of_decNat _ _ _ hp]; exact (List.append_assoc _ _ _).symm
  rw [if_neg hh] at h; clear hh
  by_cases hh : op = Machine.opIsDataReady
  · rw [if_pos hh] at h; rw [hh]; cases h; rfl
  rw [if_neg hh] at h; clear hh
  cases h

end Sys2Proof
end

