-- ==== Sys2Proof/Laws/Framing.lean ====
section
/-! SUPPORT. Lemmas of the framer's datapath functions. -/

namespace Sys2Proof.Machine

theorem attach_def (w : Word) :
    attach w = [w.extractLsb' 8 8, w.extractLsb' 0 8, crc8 (ser16 w)] := rfl

@[simp] theorem attach_length (w : Word) : (attach w).length = 3 := rfl

@[simp] theorem frame_nil (op : Word) : frame op [] = ser16 op := by simp [frame]

@[simp] theorem partition_nil : partition [] = [] := rfl

@[simp] theorem partition_cons (b0 b1 c : Byte) (rest : List Byte) :
    partition (b0 :: b1 :: c :: rest) = ⟨b0, b1, c⟩ :: partition rest := rfl

@[simp] theorem rcvOf_nil : rcvOf [] = [] := rfl
@[simp] theorem calcOf_nil : calcOf [] = [] := rfl
@[simp] theorem words_nil : words [] = [] := rfl

@[simp] theorem rcvOf_cons (b0 b1 c : Byte) (rest : List Byte) :
    rcvOf (b0 :: b1 :: c :: rest) = c :: rcvOf rest := rfl

@[simp] theorem calcOf_cons (b0 b1 c : Byte) (rest : List Byte) :
    calcOf (b0 :: b1 :: c :: rest) = crc8 [b0, b1] :: calcOf rest := rfl

@[simp] theorem words_cons (b0 b1 c : Byte) (rest : List Byte) :
    words (b0 :: b1 :: c :: rest) = des16 b0 b1 :: words rest := rfl

theorem rcvOf_length_eq_calcOf_length (buf : List Byte) : (rcvOf buf).length = (calcOf buf).length := by
  simp [rcvOf, calcOf]

/-- Validation says valid exactly when the two lists agree. -/
theorem validate_eq_valid_iff (buf : List Byte) : validate buf = .valid ↔ rcvOf buf = calcOf buf := by
  unfold validate; split <;> simp_all

theorem validate_of_ne {buf : List Byte} (h : rcvOf buf ≠ calcOf buf) :
    validate buf = .mismatch (rcvOf buf) (calcOf buf) := if_neg h

theorem validate_of_eq {buf : List Byte} (h : rcvOf buf = calcOf buf) : validate buf = .valid := if_pos h

/-- A list whose length is a positive multiple of 3 begins with a whole block. -/
theorem exists_block {buf : List Byte} {k : Nat} (h : buf.length = 3 * (k + 1)) :
    ∃ b0 b1 c rest, buf = b0 :: b1 :: c :: rest ∧ rest.length = 3 * k := by
  match buf, h with
  | b0 :: b1 :: c :: rest, h => exact ⟨b0, b1, c, rest, rfl, by simp at h; omega⟩
  | [], h => simp at h
  | [_], h => simp at h; omega
  | [_, _], h => simp at h; omega

end Sys2Proof.Machine
end

