-- ==== Sys2Proof/Laws/State.lean ====
section
/-! SUPPORT. One lemma per field per shared update of the state, true by rfl, so that no later proof unfolds a record
update. -/

namespace Sys2Proof.Machine

variable (s : State)

/-! ### State.setPh -/

@[simp] theorem State.setPh_cfgAddr (p : Phase) : (State.setPh p s).cfgAddr = s.cfgAddr := rfl
@[simp] theorem State.setPh_cfgEnforce (p : Phase) : (State.setPh p s).cfgEnforce = s.cfgEnforce := rfl
@[simp] theorem State.setPh_modeLowPower (p : Phase) : (State.setPh p s).modeLowPower = s.modeLowPower := rfl
@[simp] theorem State.setPh_modeSingleShot (p : Phase) : (State.setPh p s).modeSingleShot = s.modeSingleShot := rfl
@[simp] theorem State.setPh_ph (p : Phase) : (State.setPh p s).ph = p := rfl
@[simp] theorem State.setPh_busy (p : Phase) : (State.setPh p s).busy = s.busy := rfl
@[simp] theorem State.setPh_desc (p : Phase) : (State.setPh p s).desc = s.desc := rfl
@[simp] theorem State.setPh_tx (p : Phase) : (State.setPh p s).tx = s.tx := rfl
@[simp] theorem State.setPh_rx (p : Phase) : (State.setPh p s).rx = s.rx := rfl
@[simp] theorem State.setPh_rcvs (p : Phase) : (State.setPh p s).rcvs = s.rcvs := rfl
@[simp] theorem State.setPh_calcs (p : Phase) : (State.setPh p s).calcs = s.calcs := rfl
@[simp] theorem State.setPh_acc (p : Phase) : (State.setPh p s).acc = s.acc := rfl
@[simp] theorem State.setPh_res (p : Phase) : (State.setPh p s).res = s.res := rfl
@[simp] theorem State.setPh_ev (p : Phase) : (State.setPh p s).ev = s.ev := rfl
@[simp] theorem State.setPh_decoder (p : Phase) : (State.setPh p s).decoder = s.decoder := rfl
@[simp] theorem State.setPh_ret (p : Phase) : (State.setPh p s).ret = s.ret := rfl
@[simp] theorem State.setPh_host (p : Phase) : (State.setPh p s).host = s.host := rfl
@[simp] theorem State.setPh_writeAnswers (p : Phase) : (State.setPh p s).writeAnswers = s.writeAnswers := rfl
@[simp] theorem State.setPh_readAnswers (p : Phase) : (State.setPh p s).readAnswers = s.readAnswers := rfl
@[simp] theorem State.setPh_wire (p : Phase) : (State.setPh p s).wire = s.wire := rfl
@[simp] theorem State.setPh_freeIx (p : Phase) : (State.setPh p s).freeIx = s.freeIx := rfl

/-! ### State.setTx -/

@[simp] theorem State.setTx_cfgAddr (bs : List Byte) : (State.setTx bs s).cfgAddr = s.cfgAddr := rfl
@[simp] theorem State.setTx_cfgEnforce (bs : List Byte) : (State.setTx bs s).cfgEnforce = s.cfgEnforce := rfl
@[simp] theorem State.setTx_modeLowPower (bs : List Byte) : (State.setTx bs s).modeLowPower = s.modeLowPower := rfl
@[simp] theorem State.setTx_modeSingleShot (bs : List Byte) : (State.setTx bs s).modeSingleShot = s.modeSingleShot := rfl
@[simp] theorem State.setTx_ph (bs : List Byte) : (State.setTx bs s).ph = s.ph := rfl
@[simp] theorem State.setTx_busy (bs : List Byte) : (State.setTx bs s).busy = s.busy := rfl
@[simp] theorem State.setTx_desc (bs : List Byte) : (State.setTx bs s).desc = s.desc := rfl
@[simp] theorem State.setTx_tx (bs : List Byte) : (State.setTx bs s).tx = bs := rfl
@[simp] theorem State.setTx_rx (bs : List Byte) : (State.setTx bs s).rx = s.rx := rfl
@[simp] theorem State.setTx_rcvs (bs : List Byte) : (State.setTx bs s).rcvs = s.rcvs := rfl
@[simp] theorem State.setTx_calcs (bs : List Byte) : (State.setTx bs s).calcs = s.calcs := rfl
@[simp] theorem State.setTx_acc (bs : List Byte) : (State.setTx bs s).acc = s.acc := rfl
@[simp] theorem State.setTx_res (bs : List Byte) : (State.setTx bs s).res = s.res := rfl
@[simp] theorem State.setTx_ev (bs : List Byte) : (State.setTx bs s).ev = s.ev := rfl
@[simp] theorem State.setTx_decoder (bs : List Byte) : (State.setTx bs s).decoder = s.decoder := rfl
@[simp] theorem State.setTx_ret (bs : List Byte) : (State.setTx bs s).ret = s.ret := rfl
@[simp] theorem State.setTx_host (bs : List Byte) : (State.setTx bs s).host = s.host := rfl
@[simp] theorem State.setTx_writeAnswers (bs : List Byte) : (State.setTx bs s).writeAnswers = s.writeAnswers := rfl
@[simp] theorem State.setTx_readAnswers (bs : List Byte) : (State.setTx bs s).readAnswers = s.readAnswers := rfl
@[simp] theorem State.setTx_wire (bs : List Byte) : (State.setTx bs s).wire = s.wire := rfl
@[simp] theorem State.setTx_freeIx (bs : List Byte) : (State.setTx bs s).freeIx = s.freeIx := rfl

/-! ### State.setRx -/

@[simp] theorem State.setRx_cfgAddr (bs : List Byte) : (State.setRx bs s).cfgAddr = s.cfgAddr := rfl
@[simp] theorem State.setRx_cfgEnforce (bs : List Byte) : (State.setRx bs s).cfgEnforce = s.cfgEnforce := rfl
@[simp] theorem State.setRx_modeLowPower (bs : List Byte) : (State.setRx bs s).modeLowPower = s.modeLowPower := rfl
@[simp] theorem State.setRx_modeSingleShot (bs : List Byte) : (State.setRx bs s).modeSingleShot = s.modeSingleShot := rfl
@[simp] theorem State.setRx_ph (bs : List Byte) : (State.setRx bs s).ph = s.ph := rfl
@[simp] theorem State.setRx_busy (bs : List Byte) : (State.setRx bs s).busy = s.busy := rfl
@[simp] theorem State.setRx_desc (bs : List Byte) : (State.setRx bs s).desc = s.desc := rfl
@[simp] theorem State.setRx_tx (bs : List Byte) : (State.setRx bs s).tx = s.tx := rfl
@[simp] theorem State.setRx_rx (bs : List Byte) : (State.setRx bs s).rx = bs := rfl
@[simp] theorem State.setRx_rcvs (bs : List Byte) : (State.setRx bs s).rcvs = s.rcvs := rfl
@[simp] theorem State.setRx_calcs (bs : List Byte) : (State.setRx bs s).calcs = s.calcs := rfl
@[simp] theorem State.setRx_acc (bs : List Byte) : (State.setRx bs s).acc = s.acc := rfl
@[simp] theorem State.setRx_res (bs : List Byte) : (State.setRx bs s).res = s.res := rfl
@[simp] theorem State.setRx_ev (bs : List Byte) : (State.setRx bs s).ev = s.ev := rfl
@[simp] theorem State.setRx_decoder (bs : List Byte) : (State.setRx bs s).decoder = s.decoder := rfl
@[simp] theorem State.setRx_ret (bs : List Byte) : (State.setRx bs s).ret = s.ret := rfl
@[simp] theorem State.setRx_host (bs : List Byte) : (State.setRx bs s).host = s.host := rfl
@[simp] theorem State.setRx_writeAnswers (bs : List Byte) : (State.setRx bs s).writeAnswers = s.writeAnswers := rfl
@[simp] theorem State.setRx_readAnswers (bs : List Byte) : (State.setRx bs s).readAnswers = s.readAnswers := rfl
@[simp] theorem State.setRx_wire (bs : List Byte) : (State.setRx bs s).wire = s.wire := rfl
@[simp] theorem State.setRx_freeIx (bs : List Byte) : (State.setRx bs s).freeIx = s.freeIx := rfl

/-! ### accept -/

@[simp] theorem accept_cfgAddr : (accept s).cfgAddr = s.cfgAddr := rfl
@[simp] theorem accept_cfgEnforce : (accept s).cfgEnforce = s.cfgEnforce := rfl
@[simp] theorem accept_modeLowPower : (accept s).modeLowPower = s.modeLowPower := rfl
@[simp] theorem accept_modeSingleShot : (accept s).modeSingleShot = s.modeSingleShot := rfl
@[simp] theorem accept_ph : (accept s).ph = s.ph := rfl
@[simp] theorem accept_busy : (accept s).busy = true := rfl
@[simp] theorem accept_desc : (accept s).desc = s.desc := rfl
@[simp] theorem accept_tx : (accept s).tx = [] := rfl
@[simp] theorem accept_rx : (accept s).rx = [] := rfl
@[simp] theorem accept_rcvs : (accept s).rcvs = [] := rfl
@[simp] theorem accept_calcs : (accept s).calcs = [] := rfl
@[simp] theorem accept_acc : (accept s).acc = s.acc := rfl
@[simp] theorem accept_res : (accept s).res = none := rfl
@[simp] theorem accept_ev : (accept s).ev = s.ev := rfl
@[simp] theorem accept_decoder : (accept s).decoder = none := rfl
@[simp] theorem accept_ret : (accept s).ret = none := rfl
@[simp] theorem accept_host : (accept s).host = s.host := rfl
@[simp] theorem accept_writeAnswers : (accept s).writeAnswers = s.writeAnswers := rfl
@[simp] theorem accept_readAnswers : (accept s).readAnswers = s.readAnswers := rfl
@[simp] theorem accept_wire : (accept s).wire = s.wire := rfl
@[simp] theorem accept_freeIx : (accept s).freeIx = s.freeIx := rfl

/-! ### acceptExec -/

@[simp] theorem acceptExec_cfgAddr (dec : Option Decoder) (d : Desc) : (acceptExec dec d s).cfgAddr = s.cfgAddr := rfl
@[simp] theorem acceptExec_cfgEnforce (dec : Option Decoder) (d : Desc) : (acceptExec dec d s).cfgEnforce = s.cfgEnforce := rfl
@[simp] theorem acceptExec_modeLowPower (dec : Option Decoder) (d : Desc) : (acceptExec dec d s).modeLowPower = s.modeLowPower := rfl
@[simp] theorem acceptExec_modeSingleShot (dec : Option Decoder) (d : Desc) : (acceptExec dec d s).modeSingleShot = s.modeSingleShot := rfl
@[simp] theorem acceptExec_ph (dec : Option Decoder) (d : Desc) : (acceptExec dec d s).ph = .s1 := rfl
@[simp] theorem acceptExec_busy (dec : Option Decoder) (d : Desc) : (acceptExec dec d s).busy = true := rfl
@[simp] theorem acceptExec_desc (dec : Option Decoder) (d : Desc) : (acceptExec dec d s).desc = d := rfl
@[simp] theorem acceptExec_tx (dec : Option Decoder) (d : Desc) : (acceptExec dec d s).tx = [] := rfl
@[simp] theorem acceptExec_rx (dec : Option Decoder) (d : Desc) : (acceptExec dec d s).rx = [] := rfl
@[simp] theorem acceptExec_rcvs (dec : Option Decoder) (d : Desc) : (acceptExec dec d s).rcvs = [] := rfl
@[simp] theorem acceptExec_calcs (dec : Option Decoder) (d : Desc) : (acceptExec dec d s).calcs = [] := rfl
@[simp] theorem acceptExec_acc (dec : Option Decoder) (d : Desc) : (acceptExec dec d s).acc = s.acc := rfl
@[simp] theorem acceptExec_res (dec : Option Decoder) (d : Desc) : (acceptExec dec d s).res = none := rfl
@[simp] theorem acceptExec_ev (dec : Option Decoder) (d : Desc) : (acceptExec dec d s).ev = s.ev := rfl
@[simp] theorem acceptExec_decoder (dec : Option Decoder) (d : Desc) : (acceptExec dec d s).decoder = dec := rfl
@[simp] theorem acceptExec_ret (dec : Option Decoder) (d : Desc) : (acceptExec dec d s).ret = none := rfl
@[simp] theorem acceptExec_host (dec : Option Decoder) (d : Desc) : (acceptExec dec d s).host = s.host := rfl
@[simp] theorem acceptExec_writeAnswers (dec : Option Decoder) (d : Desc) : (acceptExec dec d s).writeAnswers = s.writeAnswers := rfl
@[simp] theorem acceptExec_readAnswers (dec : Option Decoder) (d : Desc) : (acceptExec dec d s).readAnswers = s.readAnswers := rfl
@[simp] theorem acceptExec_wire (dec : Option Decoder) (d : Desc) : (acceptExec dec d s).wire = s.wire := rfl
@[simp] theorem acceptExec_freeIx (dec : Option Decoder) (d : Desc) : (acceptExec dec d s).freeIx = s.freeIx := rfl

/-! ### deliver -/

@[simp] theorem deliver_cfgAddr (r : Result) : (deliver r s).cfgAddr = s.cfgAddr := rfl
@[simp] theorem deliver_cfgEnforce (r : Result) : (deliver r s).cfgEnforce = s.cfgEnforce := rfl
@[simp] theorem deliver_modeLowPower (r : Result) : (deliver r s).modeLowPower = s.modeLowPower := rfl
@[simp] theorem deliver_modeSingleShot (r : Result) : (deliver r s).modeSingleShot = s.modeSingleShot := rfl
@[simp] theorem deliver_ph (r : Result) : (deliver r s).ph = .idle := rfl
@[simp] theorem deliver_busy (r : Result) : (deliver r s).busy = false := rfl
@[simp] theorem deliver_desc (r : Result) : (deliver r s).desc = s.desc := rfl
@[simp] theorem deliver_tx (r : Result) : (deliver r s).tx = s.tx := rfl
@[simp] theorem deliver_rx (r : Result) : (deliver r s).rx = s.rx := rfl
@[simp] theorem deliver_rcvs (r : Result) : (deliver r s).rcvs = s.rcvs := rfl
@[simp] theorem deliver_calcs (r : Result) : (deliver r s).calcs = s.calcs := rfl
@[simp] theorem deliver_acc (r : Result) : (deliver r s).acc = s.acc := rfl
@[simp] theorem deliver_res (r : Result) : (deliver r s).res = some r := rfl
@[simp] theorem deliver_ev (r : Result) : (deliver r s).ev = s.ev := rfl
@[simp] theorem deliver_decoder (r : Result) : (deliver r s).decoder = none := rfl
@[simp] theorem deliver_ret (r : Result) : (deliver r s).ret = s.decoder.bind (·.apply r) := rfl
@[simp] theorem deliver_host (r : Result) : (deliver r s).host = s.host := rfl
@[simp] theorem deliver_writeAnswers (r : Result) : (deliver r s).writeAnswers = s.writeAnswers := rfl
@[simp] theorem deliver_readAnswers (r : Result) : (deliver r s).readAnswers = s.readAnswers := rfl
@[simp] theorem deliver_wire (r : Result) : (deliver r s).wire = s.wire := rfl
@[simp] theorem deliver_freeIx (r : Result) : (deliver r s).freeIx = s.freeIx := rfl

/-! ### raise -/

@[simp] theorem raise_cfgAddr (e : OpError) : (raise e s).cfgAddr = s.cfgAddr := rfl
@[simp] theorem raise_cfgEnforce (e : OpError) : (raise e s).cfgEnforce = s.cfgEnforce := rfl
@[simp] theorem raise_modeLowPower (e : OpError) : (raise e s).modeLowPower = s.modeLowPower := rfl
@[simp] theorem raise_modeSingleShot (e : OpError) : (raise e s).modeSingleShot = s.modeSingleShot := rfl
@[simp] theorem raise_ph (e : OpError) : (raise e s).ph = .idle := rfl
@[simp] theorem raise_busy (e : OpError) : (raise e s).busy = false := rfl
@[simp] theorem raise_desc (e : OpError) : (raise e s).desc = s.desc := rfl
@[simp] theorem raise_tx (e : OpError) : (raise e s).tx = s.tx := rfl
@[simp] theorem raise_rx (e : OpError) : (raise e s).rx = s.rx := rfl
@[simp] theorem raise_rcvs (e : OpError) : (raise e s).rcvs = s.rcvs := rfl
@[simp] theorem raise_calcs (e : OpError) : (raise e s).calcs = s.calcs := rfl
@[simp] theorem raise_acc (e : OpError) : (raise e s).acc = s.acc := rfl
@[simp] theorem raise_res (e : OpError) : (raise e s).res = some (.err e) := rfl
@[simp] theorem raise_ev (e : OpError) : (raise e s).ev = s.ev := rfl
@[simp] theorem raise_decoder (e : OpError) : (raise e s).decoder = none := rfl
@[simp] theorem raise_ret (e : OpError) : (raise e s).ret = s.decoder.bind (·.apply (.err e)) := rfl
@[simp] theorem raise_host (e : OpError) : (raise e s).host = s.host := rfl
@[simp] theorem raise_writeAnswers (e : OpError) : (raise e s).writeAnswers = s.writeAnswers := rfl
@[simp] theorem raise_readAnswers (e : OpError) : (raise e s).readAnswers = s.readAnswers := rfl
@[simp] theorem raise_wire (e : OpError) : (raise e s).wire = s.wire := rfl
@[simp] theorem raise_freeIx (e : OpError) : (raise e s).freeIx = s.freeIx := rfl

/-! ### runChecksum -/

@[simp] theorem runChecksum_cfgAddr (bs : List Byte) : (runChecksum bs s).cfgAddr = s.cfgAddr := rfl
@[simp] theorem runChecksum_cfgEnforce (bs : List Byte) : (runChecksum bs s).cfgEnforce = s.cfgEnforce := rfl
@[simp] theorem runChecksum_modeLowPower (bs : List Byte) : (runChecksum bs s).modeLowPower = s.modeLowPower := rfl
@[simp] theorem runChecksum_modeSingleShot (bs : List Byte) : (runChecksum bs s).modeSingleShot = s.modeSingleShot := rfl
@[simp] theorem runChecksum_ph (bs : List Byte) : (runChecksum bs s).ph = s.ph := rfl
@[simp] theorem runChecksum_busy (bs : List Byte) : (runChecksum bs s).busy = s.busy := rfl
@[simp] theorem runChecksum_desc (bs : List Byte) : (runChecksum bs s).desc = s.desc := rfl
@[simp] theorem runChecksum_tx (bs : List Byte) : (runChecksum bs s).tx = s.tx := rfl
@[simp] theorem runChecksum_rx (bs : List Byte) : (runChecksum bs s).rx = s.rx := rfl
@[simp] theorem runChecksum_rcvs (bs : List Byte) : (runChecksum bs s).rcvs = s.rcvs := rfl
@[simp] theorem runChecksum_calcs (bs : List Byte) : (runChecksum bs s).calcs = s.calcs := rfl
@[simp] theorem runChecksum_acc (bs : List Byte) : (runChecksum bs s).acc = crc8 bs := rfl
@[simp] theorem runChecksum_res (bs : List Byte) : (runChecksum bs s).res = s.res := rfl
@[simp] theorem runChecksum_ev (bs : List Byte) : (runChecksum bs s).ev = s.ev := rfl
@[simp] theorem runChecksum_decoder (bs : List Byte) : (runChecksum bs s).decoder = s.decoder := rfl
@[simp] theorem runChecksum_ret (bs : List Byte) : (runChecksum bs s).ret = s.ret := rfl
@[simp] theorem runChecksum_host (bs : List Byte) : (runChecksum bs s).host = s.host := rfl
@[simp] theorem runChecksum_writeAnswers (bs : List Byte) : (runChecksum bs s).writeAnswers = s.writeAnswers := rfl
@[simp] theorem runChecksum_readAnswers (bs : List Byte) : (runChecksum bs s).readAnswers = s.readAnswers := rfl
@[simp] theorem runChecksum_wire (bs : List Byte) : (runChecksum bs s).wire = s.wire := rfl
@[simp] theorem runChecksum_freeIx (bs : List Byte) : (runChecksum bs s).freeIx = s.freeIx := rfl

/-! ### appendWord -/

@[simp] theorem appendWord_cfgAddr (w : Word) : (appendWord w s).cfgAddr = s.cfgAddr := rfl
@[simp] theorem appendWord_cfgEnforce (w : Word) : (appendWord w s).cfgEnforce = s.cfgEnforce := rfl
@[simp] theorem appendWord_modeLowPower (w : Word) : (appendWord w s).modeLowPower = s.modeLowPower := rfl
@[simp] theorem appendWord_modeSingleShot (w : Word) : (appendWord w s).modeSingleShot = s.modeSingleShot := rfl
@[simp] theorem appendWord_ph (w : Word) : (appendWord w s).ph = s.ph := rfl
@[simp] theorem appendWord_busy (w : Word) : (appendWord w s).busy = s.busy := rfl
@[simp] theorem appendWord_desc (w : Word) : (appendWord w s).desc = s.desc := rfl
@[simp] theorem appendWord_tx (w : Word) : (appendWord w s).tx = s.tx ++ ser16 w ++ [crc8 (ser16 w)] := rfl
@[simp] theorem appendWord_rx (w : Word) : (appendWord w s).rx = s.rx := rfl
@[simp] theorem appendWord_rcvs (w : Word) : (appendWord w s).rcvs = s.rcvs := rfl
@[simp] theorem appendWord_calcs (w : Word) : (appendWord w s).calcs = s.calcs := rfl
@[simp] theorem appendWord_acc (w : Word) : (appendWord w s).acc = crc8 (ser16 w) := rfl
@[simp] theorem appendWord_res (w : Word) : (appendWord w s).res = s.res := rfl
@[simp] theorem appendWord_ev (w : Word) : (appendWord w s).ev = s.ev := rfl
@[simp] theorem appendWord_decoder (w : Word) : (appendWord w s).decoder = s.decoder := rfl
@[simp] theorem appendWord_ret (w : Word) : (appendWord w s).ret = s.ret := rfl
@[simp] theorem appendWord_host (w : Word) : (appendWord w s).host = s.host := rfl
@[simp] theorem appendWord_writeAnswers (w : Word) : (appendWord w s).writeAnswers = s.writeAnswers := rfl
@[simp] theorem appendWord_readAnswers (w : Word) : (appendWord w s).readAnswers = s.readAnswers := rfl
@[simp] theorem appendWord_wire (w : Word) : (appendWord w s).wire = s.wire := rfl
@[simp] theorem appendWord_freeIx (w : Word) : (appendWord w s).freeIx = s.freeIx := rfl

/-! ### runValidation -/

@[simp] theorem runValidation_cfgAddr : (runValidation s).cfgAddr = s.cfgAddr := rfl
@[simp] theorem runValidation_cfgEnforce : (runValidation s).cfgEnforce = s.cfgEnforce := rfl
@[simp] theorem runValidation_modeLowPower : (runValidation s).modeLowPower = s.modeLowPower := rfl
@[simp] theorem runValidation_modeSingleShot : (runValidation s).modeSingleShot = s.modeSingleShot := rfl
@[simp] theorem runValidation_ph : (runValidation s).ph = s.ph := rfl
@[simp] theorem runValidation_busy : (runValidation s).busy = s.busy := rfl
@[simp] theorem runValidation_desc : (runValidation s).desc = s.desc := rfl
@[simp] theorem runValidation_tx : (runValidation s).tx = s.tx := rfl
@[simp] theorem runValidation_rx : (runValidation s).rx = s.rx := rfl
@[simp] theorem runValidation_rcvs : (runValidation s).rcvs = rcvOf s.rx := rfl
@[simp] theorem runValidation_calcs : (runValidation s).calcs = calcOf s.rx := rfl
@[simp] theorem runValidation_acc : (runValidation s).acc = (calcOf s.rx).getLastD s.acc := rfl
@[simp] theorem runValidation_res : (runValidation s).res = s.res := rfl
@[simp] theorem runValidation_ev : (runValidation s).ev = s.ev := rfl
@[simp] theorem runValidation_decoder : (runValidation s).decoder = s.decoder := rfl
@[simp] theorem runValidation_ret : (runValidation s).ret = s.ret := rfl
@[simp] theorem runValidation_host : (runValidation s).host = s.host := rfl
@[simp] theorem runValidation_writeAnswers : (runValidation s).writeAnswers = s.writeAnswers := rfl
@[simp] theorem runValidation_readAnswers : (runValidation s).readAnswers = s.readAnswers := rfl
@[simp] theorem runValidation_wire : (runValidation s).wire = s.wire := rfl
@[simp] theorem runValidation_freeIx : (runValidation s).freeIx = s.freeIx := rfl

/-! ### transportWrite -/

@[simp] theorem transportWrite_cfgAddr (w : WriteAnswer) (rest : List WriteAnswer) : (transportWrite w rest s).cfgAddr = s.cfgAddr := rfl
@[simp] theorem transportWrite_cfgEnforce (w : WriteAnswer) (rest : List WriteAnswer) : (transportWrite w rest s).cfgEnforce = s.cfgEnforce := rfl
@[simp] theorem transportWrite_modeLowPower (w : WriteAnswer) (rest : List WriteAnswer) : (transportWrite w rest s).modeLowPower = s.modeLowPower := rfl
@[simp] theorem transportWrite_modeSingleShot (w : WriteAnswer) (rest : List WriteAnswer) : (transportWrite w rest s).modeSingleShot = s.modeSingleShot := rfl
@[simp] theorem transportWrite_ph (w : WriteAnswer) (rest : List WriteAnswer) : (transportWrite w rest s).ph = s.ph := rfl
@[simp] theorem transportWrite_busy (w : WriteAnswer) (rest : List WriteAnswer) : (transportWrite w rest s).busy = s.busy := rfl
@[simp] theorem transportWrite_desc (w : WriteAnswer) (rest : List WriteAnswer) : (transportWrite w rest s).desc = s.desc := rfl
@[simp] theorem transportWrite_tx (w : WriteAnswer) (rest : List WriteAnswer) : (transportWrite w rest s).tx = s.tx := rfl
@[simp] theorem transportWrite_rx (w : WriteAnswer) (rest : List WriteAnswer) : (transportWrite w rest s).rx = s.rx := rfl
@[simp] theorem transportWrite_rcvs (w : WriteAnswer) (rest : List WriteAnswer) : (transportWrite w rest s).rcvs = s.rcvs := rfl
@[simp] theorem transportWrite_calcs (w : WriteAnswer) (rest : List WriteAnswer) : (transportWrite w rest s).calcs = s.calcs := rfl
@[simp] theorem transportWrite_acc (w : WriteAnswer) (rest : List WriteAnswer) : (transportWrite w rest s).acc = s.acc := rfl
@[simp] theorem transportWrite_res (w : WriteAnswer) (rest : List WriteAnswer) : (transportWrite w rest s).res = s.res := rfl
@[simp] theorem transportWrite_ev (w : WriteAnswer) (rest : List WriteAnswer) : (transportWrite w rest s).ev = s.ev ++ [.write s.cfgAddr s.tx w.outcome] := rfl
@[simp] theorem transportWrite_decoder (w : WriteAnswer) (rest : List WriteAnswer) : (transportWrite w rest s).decoder = s.decoder := rfl
@[simp] theorem transportWrite_ret (w : WriteAnswer) (rest : List WriteAnswer) : (transportWrite w rest s).ret = s.ret := rfl
@[simp] theorem transportWrite_host (w : WriteAnswer) (rest : List WriteAnswer) : (transportWrite w rest s).host = s.host := rfl
@[simp] theorem transportWrite_writeAnswers (w : WriteAnswer) (rest : List WriteAnswer) : (transportWrite w rest s).writeAnswers = rest := rfl
@[simp] theorem transportWrite_readAnswers (w : WriteAnswer) (rest : List WriteAnswer) : (transportWrite w rest s).readAnswers = s.readAnswers := rfl
@[simp] theorem transportWrite_wire (w : WriteAnswer) (rest : List WriteAnswer) : (transportWrite w rest s).wire = s.wire ++ [(s.cfgAddr, w.carried s.tx)] := rfl
@[simp] theorem transportWrite_freeIx (w : WriteAnswer) (rest : List WriteAnswer) : (transportWrite w rest s).freeIx = s.freeIx := rfl

/-! ### transportRead -/

@[simp] theorem transportRead_cfgAddr (o : ReadOutcome) (rest : List ReadOutcome) : (transportRead o rest s).cfgAddr = s.cfgAddr := rfl
@[simp] theorem transportRead_cfgEnforce (o : ReadOutcome) (rest : List ReadOutcome) : (transportRead o rest s).cfgEnforce = s.cfgEnforce := rfl
@[simp] theorem transportRead_modeLowPower (o : ReadOutcome) (rest : List ReadOutcome) : (transportRead o rest s).modeLowPower = s.modeLowPower := rfl
@[simp] theorem transportRead_modeSingleShot (o : ReadOutcome) (rest : List ReadOutcome) : (transportRead o rest s).modeSingleShot = s.modeSingleShot := rfl
@[simp] theorem transportRead_ph (o : ReadOutcome) (rest : List ReadOutcome) : (transportRead o rest s).ph = s.ph := rfl
@[simp] theorem transportRead_busy (o : ReadOutcome) (rest : List ReadOutcome) : (transportRead o rest s).busy = s.busy := rfl
@[simp] theorem transportRead_desc (o : ReadOutcome) (rest : List ReadOutcome) : (transportRead o rest s).desc = s.desc := rfl
@[simp] theorem transportRead_tx (o : ReadOutcome) (rest : List ReadOutcome) : (transportRead o rest s).tx = s.tx := rfl
@[simp] theorem transportRead_rx (o : ReadOutcome) (rest : List ReadOutcome) : (transportRead o rest s).rx = s.rx := rfl
@[simp] theorem transportRead_rcvs (o : ReadOutcome) (rest : List ReadOutcome) : (transportRead o rest s).rcvs = s.rcvs := rfl
@[simp] theorem transportRead_calcs (o : ReadOutcome) (rest : List ReadOutcome) : (transportRead o rest s).calcs = s.calcs := rfl
@[simp] theorem transportRead_acc (o : ReadOutcome) (rest : List ReadOutcome) : (transportRead o rest s).acc = s.acc := rfl
@[simp] theorem transportRead_res (o : ReadOutcome) (rest : List ReadOutcome) : (transportRead o rest s).res = s.res := rfl
@[simp] theorem transportRead_ev (o : ReadOutcome) (rest : List ReadOutcome) : (transportRead o rest s).ev = s.ev ++ [.read s.cfgAddr s.desc.rlen o] := rfl
@[simp] theorem transportRead_decoder (o : ReadOutcome) (rest : List ReadOutcome) : (transportRead o rest s).decoder = s.decoder := rfl
@[simp] theorem transportRead_ret (o : ReadOutcome) (rest : List ReadOutcome) : (transportRead o rest s).ret = s.ret := rfl
@[simp] theorem transportRead_host (o : ReadOutcome) (rest : List ReadOutcome) : (transportRead o rest s).host = s.host := rfl
@[simp] theorem transportRead_writeAnswers (o : ReadOutcome) (rest : List ReadOutcome) : (transportRead o rest s).writeAnswers = s.writeAnswers := rfl
@[simp] theorem transportRead_readAnswers (o : ReadOutcome) (rest : List ReadOutcome) : (transportRead o rest s).readAnswers = rest := rfl
@[simp] theorem transportRead_wire (o : ReadOutcome) (rest : List ReadOutcome) : (transportRead o rest s).wire = s.wire := rfl
@[simp] theorem transportRead_freeIx (o : ReadOutcome) (rest : List ReadOutcome) : (transportRead o rest s).freeIx = s.freeIx := rfl

end Sys2Proof.Machine
end

