-- ==== Sys2Proof/Laws/Sequencer.lean ====
section
/-! SUPPORT. What each step of the sequencer can do, and how the whole run of the eight steps unfolds. -/

namespace Sys2Proof.Machine

theorem appendWord_eq (w : Word) (s : State) :
    appendWord w s = { s with tx := s.tx ++ attach w, acc := crc8 (ser16 w) } := by
  simp [appendWord, runChecksum, State.setTx, attach]

/-- Everything the loop of step 2 does; `ACC` is scratch. -/
theorem appendWords_spec (ws : List Word) (s : State) :
    ∃ acc, appendWords ws s = { s with tx := s.tx ++ ws.flatMap attach, acc := acc } := by
  induction ws generalizing s with
  | nil => exact ⟨s.acc, by simp [appendWords]⟩
  | cons w ws ih =>
    obtain ⟨acc, h⟩ := ih (appendWord w s)
    refine ⟨acc, ?_⟩
    have : appendWords (w :: ws) s = appendWords ws (appendWord w s) := rfl
    rw [this, h]
    simp [appendWord_eq, List.append_assoc]

@[simp] theorem appendWords_nil (s : State) : appendWords [] s = s := rfl

theorem timerSleep_eq (s : State) : timerSleep s = { s with ev := s.ev ++ waitEvents s.desc.wait } := by
  unfold timerSleep waitEvents; split <;> simp

/-! ### One move of `PH`, by phase -/

theorem phaseStep_idle {s : State} (h : s.ph = .idle) : phaseStep s = .next s := by simp [phaseStep, h]
theorem phaseStep_s1 {s : State} (h : s.ph = .s1) : phaseStep s = .next (stepS1 s) := by simp [phaseStep, h]
theorem phaseStep_s2 {s : State} (h : s.ph = .s2) : phaseStep s = .next (stepS2 s) := by simp [phaseStep, h]
theorem phaseStep_s3 {s : State} (h : s.ph = .s3) : phaseStep s = .next (stepS3 s) := by simp [phaseStep, h]
theorem phaseStep_s4 {s : State} (h : s.ph = .s4) : phaseStep s = .next (stepS4 s) := by simp [phaseStep, h]
theorem phaseStep_s5 {s : State} (h : s.ph = .s5) : phaseStep s = .next (stepS5 s) := by simp [phaseStep, h]
theorem phaseStep_s6 {s : State} (h : s.ph = .s6) : phaseStep s = stepS6 s := by simp [phaseStep, h]
theorem phaseStep_s7 {s : State} (h : s.ph = .s7) : phaseStep s = .next (stepS7 s) := by simp [phaseStep, h]
theorem phaseStep_s8 {s : State} (h : s.ph = .s8) : phaseStep s = .next (stepS8 s) := by simp [phaseStep, h]

/-- Step 3 hangs, fails or goes on; nothing else. -/
theorem stepS3_cases (s : State) :
    (s.writeAnswers = [] ∧ stepS3 s = s)
    ∨ (∃ rest, s.writeAnswers = .ok :: rest ∧ stepS3 s = (transportWrite .ok rest s).setPh .s4)
    ∨ ∃ e k rest, s.writeAnswers = .err e k :: rest
        ∧ stepS3 s = raise (.transportError e) (transportWrite (.err e k) rest s) := by
  unfold stepS3
  split
  · next h => exact .inl ⟨h, rfl⟩
  · next rest h => exact .inr (.inl ⟨rest, h, rfl⟩)
  · next e k rest h => exact .inr (.inr ⟨e, k, rest, h, rfl⟩)

/-- Step 6 hangs, fails, is short, is complete, or is refused; nothing else. -/
theorem stepS6_cases (s : State) :
    (s.readAnswers = [] ∧ stepS6 s = .next s)
    ∨ ∃ o rest, s.readAnswers = o :: rest ∧
      ((∃ e, o = .err e ∧ stepS6 s = .next (raise (.transportError e) (transportRead o rest s)))
      ∨ (o = .short ∧ stepS6 s = .next (raise (.shortResponse s.desc.rlen .signalled) (transportRead o rest s)))
      ∨ ∃ bs, o = .bytes bs ∧
        ((bs.length < s.desc.rlen
            ∧ stepS6 s = .next (raise (.shortResponse s.desc.rlen (.received bs.length)) (transportRead o rest s)))
        ∨ (bs.length = s.desc.rlen ∧ stepS6 s = .next (((transportRead o rest s).setRx bs).setPh .s7))
        ∨ (s.desc.rlen < bs.length ∧ stepS6 s = .refused .overlongRead))) := by
  unfold stepS6
  split
  · next h => exact .inl ⟨h, rfl⟩
  · next e rest h => exact .inr ⟨_, rest, h, .inl ⟨e, rfl, rfl⟩⟩
  · next rest h => exact .inr ⟨_, rest, h, .inr (.inl ⟨rfl, rfl⟩)⟩
  · next bs rest h =>
    refine .inr ⟨_, rest, h, .inr (.inr ⟨bs, rfl, ?_⟩)⟩
    by_cases h1 : bs.length < s.desc.rlen
    · exact .inl ⟨h1, by simp [h1]⟩
    · by_cases h2 : bs.length = s.desc.rlen
      · exact .inr (.inl ⟨h2, by simp [h2]⟩)
      · exact .inr (.inr ⟨by omega, by simp [h1, h2]⟩)

/-- Step 7 passes unvalidated, passes valid, or reports; nothing else. -/
theorem stepS7_cases (s : State) :
    (s.cfgEnforce = false ∧ stepS7 s = s.setPh .s8)
    ∨ (s.cfgEnforce = true ∧ rcvOf s.rx = calcOf s.rx ∧ stepS7 s = (runValidation s).setPh .s8)
    ∨ (s.cfgEnforce = true ∧ rcvOf s.rx ≠ calcOf s.rx
        ∧ stepS7 s = raise (.checksumMismatch (rcvOf s.rx) (calcOf s.rx)) (runValidation s)) := by
  unfold stepS7
  cases he : s.cfgEnforce
  · exact .inl ⟨rfl, rfl⟩
  · by_cases h : rcvOf s.rx = calcOf s.rx
    · exact .inr (.inl ⟨rfl, h, by simp [validate_of_eq h]⟩)
    · exact .inr (.inr ⟨rfl, h, by simp [validate_of_ne h]⟩)

/-- What every move of `PH` leaves alone: configuration, mode flags, the host's list, the free values; the trace only
grows. -/
theorem phaseStep_keeps {s t : State} (h : phaseStep s = .next t) :
    t.cfgAddr = s.cfgAddr ∧ t.cfgEnforce = s.cfgEnforce ∧ t.modeLowPower = s.modeLowPower
    ∧ t.modeSingleShot = s.modeSingleShot ∧ t.host = s.host ∧ t.freeIx = s.freeIx ∧ ∃ es, t.ev = s.ev ++ es := by
  have same : ∃ es, s.ev = s.ev ++ es := ⟨[], by simp⟩
  cases hp : s.ph with
  | idle => rw [phaseStep_idle hp] at h; cases h; exact ⟨rfl, rfl, rfl, rfl, rfl, rfl, same⟩
  | s1 => rw [phaseStep_s1 hp] at h; cases h; exact ⟨rfl, rfl, rfl, rfl, rfl, rfl, same⟩
  | s2 =>
    rw [phaseStep_s2 hp] at h; cases h
    obtain ⟨acc, he⟩ := appendWords_spec s.desc.pay s
    rw [stepS2, he]
    exact ⟨rfl, rfl, rfl, rfl, rfl, rfl, same⟩
  | s3 =>
    rw [phaseStep_s3 hp] at h; cases h
    obtain ⟨-, h⟩ | ⟨_, -, h⟩ | ⟨_, _, _, -, h⟩ := stepS3_cases s <;> rw [h]
    · exact ⟨rfl, rfl, rfl, rfl, rfl, rfl, same⟩
    all_goals exact ⟨rfl, rfl, rfl, rfl, rfl, rfl, _, rfl⟩
  | s4 =>
    rw [phaseStep_s4 hp] at h; cases h
    rw [stepS4, timerSleep_eq]
    exact ⟨rfl, rfl, rfl, rfl, rfl, rfl, _, rfl⟩
  | s5 =>
    rw [phaseStep_s5 hp] at h; cases h
    unfold stepS5
    split <;> exact ⟨rfl, rfl, rfl, rfl, rfl, rfl, same⟩
  | s6 =>
    rw [phaseStep_s6 hp] at h
    obtain ⟨-, h'⟩ | ⟨_, _, -, ⟨_, -, h'⟩ | ⟨-, h'⟩ | ⟨_, -, ⟨-, h'⟩ | ⟨-, h'⟩ | ⟨-, h'⟩⟩⟩ := stepS6_cases s <;>
      rw [h'] at h <;> cases h
    · exact ⟨rfl, rfl, rfl, rfl, rfl, rfl, same⟩
    all_goals exact ⟨rfl, rfl, rfl, rfl, rfl, rfl, _, rfl⟩
  | s7 =>
    rw [phaseStep_s7 hp] at h; cases h
    obtain ⟨-, h⟩ | ⟨-, -, h⟩ | ⟨-, -, h⟩ := stepS7_cases s <;> rw [h] <;>
      exact ⟨rfl, rfl, rfl, rfl, rfl, rfl, same⟩
  | s8 => rw [phaseStep_s8 hp] at h; cases h; exact ⟨rfl, rfl, rfl, rfl, rfl, rfl, same⟩

/-! ### Several moves -/

@[simp] theorem runPhases_zero (s : State) : runPhases 0 s = .next s := rfl

theorem runPhases_succ_next {n : Nat} {s t : State} (h : phaseStep s = .next t) :
    runPhases (n + 1) s = runPhases n t := by simp [runPhases, h]

theorem runPhases_succ_refused {n : Nat} {s : State} {r : Refusal} (h : phaseStep s = .refused r) :
    runPhases (n + 1) s = .refused r := by simp [runPhases, h]

/-- A state that its own move leaves as it is stays for any number of moves. -/
theorem runPhases_of_fixed {s : State} (h : phaseStep s = .next s) (n : Nat) : runPhases n s = .next s := by
  induction n with
  | zero => rfl
  | succ n ih => rw [runPhases_succ_next h, ih]

theorem runPhases_idle {s : State} (h : s.ph = .idle) (n : Nat) : runPhases n s = .next s :=
  runPhases_of_fixed (phaseStep_idle h) n

/-- A property that every move keeps holds after any number of moves. -/
theorem runPhases_keeps {P : State → Prop} (step : ∀ s t, P s → phaseStep s = .next t → P t) :
    ∀ (n : Nat) (s t : State), P s → runPhases n s = .next t → P t
  | 0, s, t, hp, h => by cases h; exact hp
  | n + 1, s, t, hp, h => by
    cases hs : phaseStep s with
    | next s' => rw [runPhases_succ_next hs] at h; exact runPhases_keeps step n s' t (step s s' hp hs) h
    | fault r => exact r.casesOn
    | refused r => rw [runPhases_succ_refused hs] at h; cases h

/-- What presenting an EXEC can do: refuse for its preconditions, or run the eight steps. -/
theorem presentExec_cases (dec : Option Decoder) (d : Desc) (s : State) :
    (s.busy = true ∧ presentExec dec d s = .refused .busy)
    ∨ (s.busy = false ∧ d.rlen % 3 ≠ 0 ∧ presentExec dec d s = .refused .responseLengthNotMultipleOf3)
    ∨ (s.busy = false ∧ d.rlen % 3 = 0 ∧ presentExec dec d s = runPhases 8 (acceptExec dec d s)) := by
  unfold presentExec
  cases s.busy
  · by_cases h : d.rlen % 3 = 0
    · exact .inr (.inr ⟨rfl, h, by simp [h]⟩)
    · exact .inr (.inl ⟨rfl, h, by simp [h]⟩)
  · exact .inl ⟨rfl, rfl⟩

theorem presentExec_ready {dec : Option Decoder} {d : Desc} {s : State} (hb : s.busy = false) (hl : d.rlen % 3 = 0) :
    presentExec dec d s = runPhases 8 (acceptExec dec d s) := by simp [presentExec, hb, hl]

/-- Steps 1 and 2 of an accepted EXEC: six moves are left, at S3, with the frame built. -/
theorem runPhases_accepted (dec : Option Decoder) (d : Desc) (s : State) :
    ∃ acc, runPhases 8 (acceptExec dec d s)
      = runPhases 6 { acceptExec dec d s with tx := frame d.op d.pay, acc := acc, ph := .s3 } := by
  obtain ⟨acc, h⟩ := appendWords_spec d.pay (stepS1 (acceptExec dec d s))
  refine ⟨acc, ?_⟩
  rw [runPhases_succ_next (phaseStep_s1 rfl), runPhases_succ_next (phaseStep_s2 rfl)]
  congr 1
  show (appendWords d.pay (stepS1 (acceptExec dec d s))).setPh .s3 = _
  rw [h]
  rfl

/-- The state at S6: the frame written, the wait done. -/
theorem runPhases_s3_to_s6 {s : State} {ws : List WriteAnswer} (hp : s.ph = .s3) (hw : s.writeAnswers = .ok :: ws)
    (hl : s.desc.rlen ≠ 0) :
    runPhases 6 s = runPhases 3 { s with
      writeAnswers := ws, ph := .s6, ev := s.ev ++ (.write s.cfgAddr s.tx .ok :: waitEvents s.desc.wait)
      wire := s.wire ++ [(s.cfgAddr, s.tx)] } := by
  have h3 : stepS3 s = (transportWrite .ok ws s).setPh .s4 := by simp [stepS3, hw]
  rw [runPhases_succ_next (phaseStep_s3 hp), h3, runPhases_succ_next (phaseStep_s4 rfl),
    runPhases_succ_next (phaseStep_s5 rfl)]
  simp [stepS4, stepS5, timerSleep_eq, transportWrite, State.setPh, hl, WriteAnswer.outcome, WriteAnswer.carried]

/-- From S3 without an answer to the write: the block stays. -/
theorem runPhases_s3_hangs {s : State} (hp : s.ph = .s3) (hw : s.writeAnswers = []) (n : Nat) :
    runPhases n s = .next s :=
  runPhases_of_fixed (by rw [phaseStep_s3 hp]; simp [stepS3, hw]) n

/-- From S3 with a failed write: the operation ends. -/
theorem runPhases_s3_fails {s : State} {e : TransportFailure} {k : Nat} {ws : List WriteAnswer} (hp : s.ph = .s3)
    (hw : s.writeAnswers = .err e k :: ws) (n : Nat) :
    runPhases (n + 1) s = .next (raise (.transportError e) (transportWrite (.err e k) ws s)) := by
  rw [runPhases_succ_next (phaseStep_s3 hp)]
  simp only [stepS3, hw]
  exact runPhases_idle rfl n

/-- From S3 without a response to read: the operation ends at step 5. -/
theorem runPhases_s3_no_response {s : State} {ws : List WriteAnswer} (hp : s.ph = .s3)
    (hw : s.writeAnswers = .ok :: ws) (hl : s.desc.rlen = 0) :
    runPhases 6 s = .next (deliver (.ok .nothing) { s with
      writeAnswers := ws, ev := s.ev ++ (.write s.cfgAddr s.tx .ok :: waitEvents s.desc.wait)
      wire := s.wire ++ [(s.cfgAddr, s.tx)] }) := by
  have h3 : stepS3 s = (transportWrite .ok ws s).setPh .s4 := by simp [stepS3, hw]
  rw [runPhases_succ_next (phaseStep_s3 hp), h3, runPhases_succ_next (phaseStep_s4 rfl),
    runPhases_succ_next (phaseStep_s5 rfl)]
  simp [stepS4, stepS5, timerSleep_eq, transportWrite, State.setPh, hl, WriteAnswer.outcome, WriteAnswer.carried]
  rw [runPhases_idle rfl]
  simp [deliver]

/-- From S6 without an answer to the read: the block stays. -/
theorem runPhases_s6_hangs {s : State} (hp : s.ph = .s6) (hr : s.readAnswers = []) (n : Nat) :
    runPhases n s = .next s :=
  runPhases_of_fixed (by rw [phaseStep_s6 hp]; simp [stepS6, hr]) n

/-- From S6 with a failed read: the operation ends. -/
theorem runPhases_s6_fails {s : State} {e : TransportFailure} {rs : List ReadOutcome} (hp : s.ph = .s6)
    (hr : s.readAnswers = .err e :: rs) (n : Nat) :
    runPhases (n + 1) s = .next (raise (.transportError e) (transportRead (.err e) rs s)) := by
  have h : phaseStep s = .next (raise (.transportError e) (transportRead (.err e) rs s)) := by
    rw [phaseStep_s6 hp]; simp [stepS6, hr]
  rw [runPhases_succ_next h, runPhases_idle rfl]

/-- From S6 with a signalled short read: the operation ends. -/
theorem runPhases_s6_short {s : State} {rs : List ReadOutcome} (hp : s.ph = .s6)
    (hr : s.readAnswers = .short :: rs) (n : Nat) :
    runPhases (n + 1) s = .next (raise (.shortResponse s.desc.rlen .signalled) (transportRead .short rs s)) := by
  have h : phaseStep s = .next (raise (.shortResponse s.desc.rlen .signalled) (transportRead .short rs s)) := by
    rw [phaseStep_s6 hp]; simp [stepS6, hr]
  rw [runPhases_succ_next h, runPhases_idle rfl]

/-- From S6 with too few bytes: the operation ends. -/
theorem runPhases_s6_few {s : State} {bs : List Byte} {rs : List ReadOutcome} (hp : s.ph = .s6)
    (hr : s.readAnswers = .bytes bs :: rs) (hl : bs.length < s.desc.rlen) (n : Nat) :
    runPhases (n + 1) s
      = .next (raise (.shortResponse s.desc.rlen (.received bs.length)) (transportRead (.bytes bs) rs s)) := by
  have h : phaseStep s
      = .next (raise (.shortResponse s.desc.rlen (.received bs.length)) (transportRead (.bytes bs) rs s)) := by
    rw [phaseStep_s6 hp]; simp [stepS6, hr, hl]
  rw [runPhases_succ_next h, runPhases_idle rfl]

/-- From S6 with too many bytes: refused. -/
theorem runPhases_s6_overlong {s : State} {bs : List Byte} {rs : List ReadOutcome} (hp : s.ph = .s6)
    (hr : s.readAnswers = .bytes bs :: rs) (hl : s.desc.rlen < bs.length) (n : Nat) :
    runPhases (n + 1) s = .refused .overlongRead := by
  refine runPhases_succ_refused ?_
  rw [phaseStep_s6 hp]
  simp [stepS6, hr, show ¬ bs.length < s.desc.rlen by omega, show ¬ bs.length = s.desc.rlen by omega]

/-- From S6 with a full response, validation off. -/
theorem runPhases_s6_unvalidated {s : State} {bs : List Byte} {rs : List ReadOutcome} (hp : s.ph = .s6)
    (hr : s.readAnswers = .bytes bs :: rs) (hl : bs.length = s.desc.rlen) (he : s.cfgEnforce = false) :
    runPhases 3 s = .next (deliver (.ok (.bytes bs)) { transportRead (.bytes bs) rs s with rx := bs }) := by
  have h : phaseStep s = .next (((transportRead (.bytes bs) rs s).setRx bs).setPh .s7) := by
    rw [phaseStep_s6 hp]; simp [stepS6, hr, hl]
  rw [runPhases_succ_next h, runPhases_succ_next (phaseStep_s7 rfl)]
  have h7 : stepS7 (((transportRead (.bytes bs) rs s).setRx bs).setPh .s7)
      = ((transportRead (.bytes bs) rs s).setRx bs).setPh .s8 := by
    simp [stepS7, transportRead, State.setRx, State.setPh, he]
  rw [h7, runPhases_succ_next (phaseStep_s8 rfl), runPhases_zero]
  rfl

/-- From S6 with a full response that is valid, validation on. -/
theorem runPhases_s6_valid {s : State} {bs : List Byte} {rs : List ReadOutcome} (hp : s.ph = .s6)
    (hr : s.readAnswers = .bytes bs :: rs) (hl : bs.length = s.desc.rlen) (he : s.cfgEnforce = true)
    (hv : rcvOf bs = calcOf bs) :
    runPhases 3 s
      = .next (deliver (.ok (.bytes bs)) (runValidation { transportRead (.bytes bs) rs s with rx := bs })) := by
  have h : phaseStep s = .next (((transportRead (.bytes bs) rs s).setRx bs).setPh .s7) := by
    rw [phaseStep_s6 hp]; simp [stepS6, hr, hl]
  rw [runPhases_succ_next h, runPhases_succ_next (phaseStep_s7 rfl)]
  have h7 : stepS7 (((transportRead (.bytes bs) rs s).setRx bs).setPh .s7)
      = (runValidation ((transportRead (.bytes bs) rs s).setRx bs)).setPh .s8 := by
    simp [stepS7, transportRead, State.setRx, State.setPh, he, validate_of_eq hv, runValidation]
  rw [h7, runPhases_succ_next (phaseStep_s8 rfl), runPhases_zero]
  rfl

/-- From S6 with a full response that is not valid, validation on. -/
theorem runPhases_s6_mismatch {s : State} {bs : List Byte} {rs : List ReadOutcome} (hp : s.ph = .s6)
    (hr : s.readAnswers = .bytes bs :: rs) (hl : bs.length = s.desc.rlen) (he : s.cfgEnforce = true)
    (hv : rcvOf bs ≠ calcOf bs) :
    runPhases 3 s = .next (raise (.checksumMismatch (rcvOf bs) (calcOf bs))
      (runValidation { transportRead (.bytes bs) rs s with rx := bs })) := by
  have h : phaseStep s = .next (((transportRead (.bytes bs) rs s).setRx bs).setPh .s7) := by
    rw [phaseStep_s6 hp]; simp [stepS6, hr, hl]
  rw [runPhases_succ_next h, runPhases_succ_next (phaseStep_s7 rfl)]
  have h7 : stepS7 (((transportRead (.bytes bs) rs s).setRx bs).setPh .s7)
      = raise (.checksumMismatch (rcvOf bs) (calcOf bs))
          (runValidation (((transportRead (.bytes bs) rs s).setRx bs).setPh .s7)) := by
    simp [stepS7, transportRead, State.setRx, State.setPh, he, validate_of_ne hv]
  rw [h7, runPhases_idle rfl]
  rfl

/-! ### Everything an EXEC can do -/

/-- The state an EXEC is in when it reaches step 3; `ACC` is scratch. -/
def atWrite (dec : Option Decoder) (d : Desc) (acc : Byte) (s : State) : State :=
  { acceptExec dec d s with tx := frame d.op d.pay, acc := acc, ph := .s3 }

/-- The state an EXEC is in when it reaches step 6, the answers to writes after its own being `ws`. -/
def atRead (dec : Option Decoder) (d : Desc) (acc : Byte) (ws : List WriteAnswer) (s : State) : State :=
  { acceptExec dec d s with
    tx := frame d.op d.pay, acc := acc, ph := .s6, writeAnswers := ws
    ev := s.ev ++ (.write s.cfgAddr (frame d.op d.pay) .ok :: waitEvents d.wait)
    wire := s.wire ++ [(s.cfgAddr, frame d.op d.pay)] }

theorem presentExec_atWrite (dec : Option Decoder) {d : Desc} {s : State} (hb : s.busy = false) (hm : d.rlen % 3 = 0) :
    ∃ acc, presentExec dec d s = runPhases 6 (atWrite dec d acc s) := by
  obtain ⟨acc, h⟩ := runPhases_accepted dec d s
  exact ⟨acc, (presentExec_ready hb hm).trans h⟩

theorem runPhases_atWrite_to_atRead (dec : Option Decoder) {d : Desc} (acc : Byte) {s : State} {ws : List WriteAnswer}
    (hw : s.writeAnswers = .ok :: ws) (hl : d.rlen ≠ 0) :
    runPhases 6 (atWrite dec d acc s) = runPhases 3 (atRead dec d acc ws s) := by
  rw [runPhases_s3_to_s6 (s := atWrite dec d acc s) rfl hw hl]
  rfl

/-- Everything an EXEC that is not refused can do: hang in the write, fail it, end at step 5, hang in the read, fail it,
deliver the buffer unvalidated or valid, or report the mismatch. -/
theorem presentExec_next {dec : Option Decoder} {d : Desc} {s t : State} (h : presentExec dec d s = .next t) :
    s.busy = false ∧ d.rlen % 3 = 0 ∧ ∃ acc,
      (s.writeAnswers = [] ∧ t = atWrite dec d acc s)
      ∨ (∃ e k ws, s.writeAnswers = .err e k :: ws
          ∧ t = raise (.transportError e) (transportWrite (.err e k) ws (atWrite dec d acc s)))
      ∨ ∃ ws, s.writeAnswers = .ok :: ws ∧
        ((d.rlen = 0 ∧ t = deliver (.ok .nothing) (atRead dec d acc ws s))
        ∨ d.rlen ≠ 0 ∧
          ((s.readAnswers = [] ∧ t = atRead dec d acc ws s)
          ∨ (∃ o rs e, s.readAnswers = o :: rs ∧ (∀ r, o ≠ .bytes r ∨ r.length < d.rlen) ∧ (∀ r c, e ≠ .checksumMismatch r c)
              ∧ t = raise e (transportRead o rs (atRead dec d acc ws s)))
          ∨ ∃ bs rs, s.readAnswers = .bytes bs :: rs ∧ bs.length = d.rlen ∧
              ((s.cfgEnforce = false
                  ∧ t = deliver (.ok (.bytes bs)) { transportRead (.bytes bs) rs (atRead dec d acc ws s) with rx := bs })
              ∨ (s.cfgEnforce = true ∧ rcvOf bs = calcOf bs
                  ∧ t = deliver (.ok (.bytes bs))
                      (runValidation { transportRead (.bytes bs) rs (atRead dec d acc ws s) with rx := bs }))
              ∨ (s.cfgEnforce = true ∧ rcvOf bs ≠ calcOf bs
                  ∧ t = raise (.checksumMismatch (rcvOf bs) (calcOf bs))
                      (runValidation { transportRead (.bytes bs) rs (atRead dec d acc ws s) with rx := bs }))))) := by
  obtain ⟨hb, h'⟩ | ⟨hb, hm, h'⟩ | ⟨hb, hm, -⟩ := presentExec_cases dec d s
  · rw [h'] at h; cases h
  · rw [h'] at h; cases h
  obtain ⟨acc, h0⟩ := presentExec_atWrite dec hb hm
  rw [h0] at h
  refine ⟨hb, hm, acc, ?_⟩
  match hw : s.writeAnswers with
  | [] =>
    rw [runPhases_s3_hangs (s := atWrite dec d acc s) rfl hw] at h
    cases h; exact .inl ⟨rfl, rfl⟩
  | .err e k :: ws =>
    rw [runPhases_s3_fails (s := atWrite dec d acc s) rfl hw] at h
    cases h; exact .inr (.inl ⟨e, k, ws, rfl, rfl⟩)
  | .ok :: ws =>
    refine .inr (.inr ⟨ws, rfl, ?_⟩)
    by_cases hl : d.rlen = 0
    · rw [runPhases_s3_no_response (s := atWrite dec d acc s) rfl hw hl] at h
      cases h; exact .inl ⟨hl, rfl⟩
    rw [runPhases_atWrite_to_atRead dec acc hw hl] at h
    refine .inr ⟨hl, ?_⟩
    match hr : s.readAnswers with
    | [] =>
      rw [runPhases_s6_hangs (s := atRead dec d acc ws s) rfl hr] at h
      cases h; exact .inl ⟨rfl, rfl⟩
    | .err e :: rs =>
      rw [runPhases_s6_fails (s := atRead dec d acc ws s) rfl hr] at h
      cases h; exact .inr (.inl ⟨_, rs, _, rfl, by simp, by simp, rfl⟩)
    | .short :: rs =>
      rw [runPhases_s6_short (s := atRead dec d acc ws s) rfl hr] at h
      cases h; exact .inr (.inl ⟨_, rs, _, rfl, by simp, by simp, rfl⟩)
    | .bytes bs :: rs =>
      rcases Nat.lt_trichotomy bs.length d.rlen with hlt | heq | hgt
      · rw [runPhases_s6_few (s := atRead dec d acc ws s) rfl hr hlt] at h
        cases h
        refine .inr (.inl ⟨_, rs, _, rfl, fun r => ?_, by simp, rfl⟩)
        by_cases hb : bs = r
        · exact .inr (hb ▸ hlt)
        · exact .inl (by simpa using hb)
      · refine .inr (.inr ⟨bs, rs, rfl, heq, ?_⟩)
        cases he : s.cfgEnforce
        · rw [runPhases_s6_unvalidated (s := atRead dec d acc ws s) rfl hr heq he] at h
          cases h; exact .inl ⟨rfl, rfl⟩
        · by_cases hv : rcvOf bs = calcOf bs
          · rw [runPhases_s6_valid (s := atRead dec d acc ws s) rfl hr heq he hv] at h
            cases h; exact .inr (.inl ⟨rfl, hv, rfl⟩)
          · rw [runPhases_s6_mismatch (s := atRead dec d acc ws s) rfl hr heq he hv] at h
            cases h; exact .inr (.inr ⟨rfl, hv, rfl⟩)
      · rw [runPhases_s6_overlong (s := atRead dec d acc ws s) rfl hr hgt] at h
        cases h

end Sys2Proof.Machine
end

