-- ==== Sys2Proof/Laws/Exec.lean ====
section
/-! SUPPORT. What one operation can do, over all instructions, and what an EXEC does not depend on. -/

namespace Sys2Proof.Machine

/-- Every operation that is not refused either touches neither transport nor timer and ends at once, or presents one EXEC. -/
theorem exec_next (i : Instr) (s t : State) (h : exec i s = .next t) :
    (isCatalog i = false ∧ s.busy = false ∧ ∃ r, ∃ tx rx rcvs calcs acc, t = { s with tx := tx, rx := rx, rcvs := rcvs, calcs := calcs, acc := acc, busy := false, ph := .idle, res := some r, ret := none, decoder := none })
    ∨ ∃ dec d s', presentExec dec d s' = .next t ∧ (s' = s ∨ (∃ q, i = .setTemperatureOffset q) ∧ s' = { s with freeIx := s.freeIx + 1 })
        ∧ ((isCatalog i = false ∧ dec = none) ∨ (isCatalog i = true ∧ ∃ x, dec = some x ∧ d.rlen = x.rlen)) := by
  cases i with
  | csum bs =>
    left
    by_cases hb : s.busy = true
    · simp [exec, execCsum, hb] at h
    · simp only [exec, execCsum, hb] at h
      cases h
      exact ⟨rfl, by simpa using hb, _, _, _, _, _, _, rfl⟩
  | frame op pay =>
    left
    by_cases hb : s.busy = true
    · simp [exec, execFrame, hb] at h
    · simp only [exec, execFrame, hb] at h
      cases h
      obtain ⟨acc, he⟩ := appendWords_spec pay ((accept s).setTx (ser16 op))
      rw [he]
      exact ⟨rfl, by simpa using hb, _, _, _, _, _, _, rfl⟩
  | valid buf =>
    left
    by_cases hb : s.busy = true
    · simp [exec, execValid, hb] at h
    · by_cases hm : buf.length % 3 = 0
      · refine ⟨rfl, by simpa using hb, ?_⟩
        by_cases hv : rcvOf buf = calcOf buf
        · simp [exec, execValid, hb, hm, validate_of_eq hv, State.setRx, runValidation] at h
          subst h
          exact ⟨_, _, _, _, _, _, rfl⟩
        · simp [exec, execValid, hb, hm, validate_of_ne hv, State.setRx, runValidation] at h
          subst h
          exact ⟨_, _, _, _, _, _, rfl⟩
      · simp [exec, execValid, hb, hm] at h
  | exec op pay wait rlen => exact .inr ⟨_, _, _, h, .inl rfl, .inl ⟨rfl, rfl⟩⟩
  | saveConfig => exact .inr ⟨_, _, _, h, .inl rfl, .inr ⟨rfl, _, rfl, rfl⟩⟩
  | getId => exact .inr ⟨_, _, _, h, .inl rfl, .inr ⟨rfl, _, rfl, rfl⟩⟩
  | execSelfTest => exact .inr ⟨_, _, _, h, .inl rfl, .inr ⟨rfl, _, rfl, rfl⟩⟩
  | reinit => exact .inr ⟨_, _, _, h, .inl rfl, .inr ⟨rfl, _, rfl, rfl⟩⟩
  | setTemperatureOffset q =>
    simp only [exec, execSetTemperatureOffset] at h
    right
    split at h
    all_goals 
      simp only [presentSet] at h
      split at h
      · first | exact ⟨_, _, _, h, .inl rfl, .inr ⟨rfl, _, rfl, rfl⟩⟩ | exact ⟨_, _, _, h, .inr ⟨⟨q, rfl⟩, rfl⟩, .inr ⟨rfl, _, rfl, rfl⟩⟩
      · split at h <;> cases h
  | getTemperatureOffset => exact .inr ⟨_, _, _, h, .inl rfl, .inr ⟨rfl, _, rfl, rfl⟩⟩
  | setAltitude q =>
    simp only [exec, execSetAltitude, presentSet] at h
    split at h
    · exact .inr ⟨_, _, _, h, .inl rfl, .inr ⟨rfl, _, rfl, rfl⟩⟩
    · split at h <;> cases h
  | getAltitude => exact .inr ⟨_, _, _, h, .inl rfl, .inr ⟨rfl, _, rfl, rfl⟩⟩
  | setAmbientPressure q =>
    simp only [exec, execSetAmbientPressure, presentSet] at h
    split at h
    · exact .inr ⟨_, _, _, h, .inl rfl, .inr ⟨rfl, _, rfl, rfl⟩⟩
    · split at h <;> cases h
  | periodicMeasurementStartLowPower => exact .inr ⟨_, _, _, h, .inl rfl, .inr ⟨rfl, _, rfl, rfl⟩⟩
  | periodicMeasurementStartNormal => exact .inr ⟨_, _, _, h, .inl rfl, .inr ⟨rfl, _, rfl, rfl⟩⟩
  | periodicMeasurementStop w =>
    simp only [exec, execPeriodicMeasurementStop] at h
    split at h
    · cases h
    split at h
    · exact .inr ⟨_, _, _, h, .inl rfl, .inr ⟨rfl, _, rfl, rfl⟩⟩
    · cases h
  | isDataReady => exact .inr ⟨_, _, _, h, .inl rfl, .inr ⟨rfl, _, rfl, rfl⟩⟩

/-- An EXEC leaves the configuration, the mode flags, the host and the free values alone. -/
theorem presentExec_keeps {dec d s t} (h : presentExec dec d s = .next t) :
   t.cfgAddr = s.cfgAddr ∧ t.cfgEnforce = s.cfgEnforce ∧ t.modeLowPower = s.modeLowPower
    ∧ t.modeSingleShot = s.modeSingleShot ∧ t.host = s.host ∧ t.freeIx = s.freeIx := by
  obtain ⟨-, -, acc, ⟨-, rfl⟩ | ⟨e, k, ws, -, rfl⟩ | ⟨ws, -, ⟨-, rfl⟩ | ⟨-, ⟨-, rfl⟩ | ⟨o, rs, e, -, -, -, rfl⟩ | ⟨bs, rs, -, -, ⟨-, rfl⟩ | ⟨-, -, rfl⟩ | ⟨-, -, rfl⟩⟩⟩⟩⟩ := presentExec_next h
  all_goals
    simp [raise, deliver, transportWrite, transportRead, runValidation, atWrite, atRead, acceptExec, accept]

/-- A waiting recipe changes nothing of a run but the value the host gets. -/
theorem runPhases_decoder (n : Nat) : ∀ (s : State) (dec : Decoder), s.decoder = none → (s.ph ≠ .idle → s.ret = none) → s.ph ≠ .idle → s.res = none →
    (∀ r, runPhases n s = .refused r → runPhases n { s with decoder := some dec } = .refused r)
    ∧ ∀ t, runPhases n s = .next t → runPhases n { s with decoder := some dec } = .next { t with
          decoder := if t.ph = .idle then none else some dec
          ret := match t.res with | none => none | some r => dec.apply r } := by
  induction n with
  | zero => intro s dec h1 h2 h3 h4; refine ⟨by simp, ?_⟩; intro t ht; cases ht; simp [h3, h4, h2 h3]
  | succ n ih =>
    intro s dec h1 h2 h3 h4
    have fin : ∀ (s0 s' : State) (r : Result), phaseStep s = .next (deliver r s0) → s0.decoder = none → phaseStep { s with decoder := some dec } = .next (deliver r { s0 with decoder := some dec }) →
      (∀ r, runPhases (n+1) s = .refused r → runPhases (n+1) { s with decoder := some dec } = .refused r)
      ∧ ∀ t, runPhases (n+1) s = .next t → runPhases (n+1) { s with decoder := some dec } = .next { t with
          decoder := if t.ph = .idle then none else some dec
          ret := match t.res with | none => none | some r => dec.apply r } := by
      intro s0 s' r a1 a2 a3
      rw [runPhases_succ_next a1, runPhases_succ_next a3, runPhases_idle rfl, runPhases_idle rfl]
      refine ⟨by simp, ?_⟩
      intro t ht; cases ht
      simp [deliver]
    have go : ∀ (s' : State), phaseStep s = .next s' → s'.decoder = none → (s'.ret = none) → s'.ph ≠ .idle → s'.res = none → phaseStep { s with decoder := some dec } = .next { s' with decoder := some dec } →
      (∀ r, runPhases (n+1) s = .refused r → runPhases (n+1) { s with decoder := some dec } = .refused r)
      ∧ ∀ t, runPhases (n+1) s = .next t → runPhases (n+1) { s with decoder := some dec } = .next { t with
          decoder := if t.ph = .idle then none else some dec
          ret := match t.res with | none => none | some r => dec.apply r } := by
      intro s' a1 a2 a3 a4 a5 a6
      rw [runPhases_succ_next a1, runPhases_succ_next a6]
      exact ih s' dec a2 (fun _ => a3) a4 a5
    have h2' := h2 h3
    obtain ⟨p, hp⟩ : ∃ p, s.ph = p := ⟨_, rfl⟩
    cases p with
    | idle => exact absurd hp h3
    | s1 => exact go _ (phaseStep_s1 hp) h1 h2' (by simp [stepS1]) h4 (phaseStep_s1 hp)
    | s2 =>
      obtain ⟨acc, hx⟩ := appendWords_spec s.desc.pay s
      have aw : ∀ (ws : List Word) (u : State), appendWords ws { u with decoder := some dec } = { appendWords ws u with decoder := some dec } := by
        intro ws; induction ws with
        | nil => intro u; rfl
        | cons w ws ih2 =>
          intro u
          exact ih2 (appendWord w u)
      have e1 : phaseStep s = .next (stepS2 s) := phaseStep_s2 hp
      have e2 : phaseStep { s with decoder := some dec } = .next { stepS2 s with decoder := some dec } := by
        rw [phaseStep_s2 (s := { s with decoder := some dec }) hp]
        show Host.Outcome.next ((appendWords s.desc.pay { s with decoder := some dec }).setPh .s3) = _
        rw [aw]; rfl
      exact go _ e1 (by rw [stepS2, hx]; exact h1) (by rw [stepS2, hx]; exact h2') (by rw [stepS2, hx]; simp [State.setPh]) (by rw [stepS2, hx]; exact h4) e2
    | s3 =>
      have e1 := phaseStep_s3 hp
      have e2 := phaseStep_s3 (s := { s with decoder := some dec }) hp
      obtain ⟨wa, hw⟩ : ∃ w, s.writeAnswers = w := ⟨_, rfl⟩
      match wa, hw with
      | [], hw => 
        have e3 : stepS3 s = s := by simp [stepS3, hw]
        have e4 : stepS3 { s with decoder := some dec } = { s with decoder := some dec } := by simp [stepS3, hw]
        exact go _ (e1.trans (by rw [e3])) h1 h2' h3 h4 (e2.trans (by rw [e4]))
      | .ok :: ws, hw => 
        have e3 : stepS3 s = (transportWrite .ok ws s).setPh .s4 := by simp [stepS3, hw]
        have e4 : stepS3 { s with decoder := some dec } = (transportWrite .ok ws { s with decoder := some dec }).setPh .s4 := by simp [stepS3, hw]
        exact go ((transportWrite .ok ws s).setPh .s4) (e1.trans (by rw [e3])) h1 h2' (by simp [State.setPh]) h4 (e2.trans (by rw [e4]; rfl))
      | .err e k :: ws, hw => 
        have e3 : stepS3 s = raise (.transportError e) (transportWrite (.err e k) ws s) := by simp [stepS3, hw]
        have e4 : stepS3 { s with decoder := some dec } = raise (.transportError e) (transportWrite (.err e k) ws { s with decoder := some dec }) := by simp [stepS3, hw]
        exact fin (transportWrite (.err e k) ws s) s _ (e1.trans (by rw [e3]; rfl)) h1 (e2.trans (by rw [e4]; rfl))
    | s4 =>
      refine go _ (phaseStep_s4 hp) (by rw [stepS4, timerSleep_eq]; exact h1) (by rw [stepS4, timerSleep_eq]; exact h2') (by simp [stepS4, State.setPh]) (by rw [stepS4, timerSleep_eq]; exact h4) ?_
      rw [phaseStep_s4 (s := { s with decoder := some dec }) hp]; simp [stepS4, timerSleep_eq, State.setPh]
    | s5 =>
      have e1 := phaseStep_s5 hp
      have e2 := phaseStep_s5 (s := { s with decoder := some dec }) hp
      by_cases hr : s.desc.rlen = 0
      · have e3 : stepS5 s = deliver (.ok .nothing) s := by simp [stepS5, hr]
        have e4 : stepS5 { s with decoder := some dec } = deliver (.ok .nothing) { s with decoder := some dec } := by simp [stepS5, hr]
        exact fin _ s _ (e1.trans (by rw [e3])) h1 (e2.trans (by rw [e4]))
      · have e3 : stepS5 s = s.setPh .s6 := by simp [stepS5, hr]
        have e4 : stepS5 { s with decoder := some dec } = ({ s with decoder := some dec }).setPh .s6 := by simp [stepS5, hr]
        exact go (s.setPh .s6) (e1.trans (by rw [e3])) h1 h2' (by simp [State.setPh]) h4 (e2.trans (by rw [e4]; rfl))
    | s6 =>
      have e1 := phaseStep_s6 hp
      have e2 := phaseStep_s6 (s := { s with decoder := some dec }) hp
      obtain ⟨hr, h'⟩ | ⟨o, rest, hr, ⟨e, rfl, h'⟩ | ⟨rfl, h'⟩ | ⟨bs, rfl, ⟨hl, h'⟩ | ⟨hl, h'⟩ | ⟨hl, h'⟩⟩⟩ := stepS6_cases s
      · exact go _ (e1.trans h') h1 h2' h3 h4 (e2.trans (by simp [stepS6, hr]))
      · exact fin _ s _ (e1.trans h') h1 (e2.trans (by simp [stepS6, hr]; rfl))
      · exact fin _ s _ (e1.trans h') h1 (e2.trans (by simp [stepS6, hr]; rfl))
      · exact fin _ s _ (e1.trans h') h1 (e2.trans (by simp [stepS6, hr, hl]; rfl))
      · exact go _ (e1.trans h') h1 h2' (by simp [State.setPh]) h4 (e2.trans (by simp [stepS6, hr, hl]; rfl))
      · have e4 : stepS6 { s with decoder := some dec } = .refused .overlongRead := by
          simp [stepS6, hr, show ¬ bs.length < s.desc.rlen by omega, show ¬ bs.length = s.desc.rlen by omega]
        rw [runPhases_succ_refused (e1.trans h'), runPhases_succ_refused (e2.trans e4)]
        exact ⟨fun r h => h, fun t h => by cases h⟩
    | s7 =>
      have e1 := phaseStep_s7 hp
      have e2 := phaseStep_s7 (s := { s with decoder := some dec }) hp
      obtain ⟨he, h'⟩ | ⟨he, hv, h'⟩ | ⟨he, hv, h'⟩ := stepS7_cases s
      · exact go (s.setPh .s8) (e1.trans (by rw [h'])) h1 h2' (by simp [State.setPh]) h4 (e2.trans (by simp [stepS7, he]; rfl))
      · exact go ((runValidation s).setPh .s8) (e1.trans (by rw [h'])) h1 h2' (by simp [State.setPh]) h4 (e2.trans (by simp [stepS7, he, validate_of_eq hv, runValidation, State.setPh]))
      · exact fin (runValidation s) s _ (e1.trans (by rw [h']; rfl)) h1 (e2.trans (by simp [stepS7, he, validate_of_ne hv, runValidation]; rfl))
    | s8 => exact fin _ s _ (phaseStep_s8 hp) h1 (phaseStep_s8 (s := { s with decoder := some dec }) hp)

/-- A waiting recipe changes nothing of an EXEC but the value the host gets (44_catalog.md R210). -/
theorem presentExec_decoder (d : Desc) (dec : Decoder) (s : State) :
    (∀ r, presentExec none d s = .refused r → presentExec (some dec) d s = .refused r)
    ∧ ∀ t, presentExec none d s = .next t →
        presentExec (some dec) d s = .next { t with
          decoder := if t.ph = .idle then none else some dec
          ret := match t.res with | none => none | some r => dec.apply r } := by
  unfold presentExec
  by_cases hb : s.busy = true
  · simp [hb]
  by_cases hm : d.rlen % 3 = 0
  · simp only [hb, hm, if_true]
    exact runPhases_decoder 8 (acceptExec none d s) dec rfl (fun _ => rfl) (by simp [acceptExec]) rfl
  · simp [hb, hm]

/-- What `ACC` holds when the write begins matters to nothing but `ACC` (10_state.md R31). -/
theorem runPhases_atWrite_acc (dec : Option Decoder) (d : Desc) (a b : Byte) (s : State) :
    (∀ r, runPhases 6 (atWrite dec d a s) = .refused r → runPhases 6 (atWrite dec d b s) = .refused r)
    ∧ ∀ t, runPhases 6 (atWrite dec d a s) = .next t → ∃ c, runPhases 6 (atWrite dec d b s) = .next { t with acc := c } := by
  match hw : s.writeAnswers with
  | [] =>
    rw [runPhases_s3_hangs (s := atWrite dec d a s) rfl hw, runPhases_s3_hangs (s := atWrite dec d b s) rfl hw]
    exact ⟨by simp, fun t h => by cases h; exact ⟨b, rfl⟩⟩
  | .err e k :: ws =>
    rw [runPhases_s3_fails (s := atWrite dec d a s) rfl hw, runPhases_s3_fails (s := atWrite dec d b s) rfl hw]
    exact ⟨by simp, fun t h => by cases h; exact ⟨b, rfl⟩⟩
  | .ok :: ws =>
    by_cases hl : d.rlen = 0
    · rw [runPhases_s3_no_response (s := atWrite dec d a s) rfl hw hl, runPhases_s3_no_response (s := atWrite dec d b s) rfl hw hl]
      exact ⟨by simp, fun t h => by cases h; exact ⟨b, rfl⟩⟩
    rw [runPhases_atWrite_to_atRead dec a hw hl, runPhases_atWrite_to_atRead dec b hw hl]
    match hr : s.readAnswers with
    | [] =>
      rw [runPhases_s6_hangs (s := atRead dec d a ws s) rfl hr, runPhases_s6_hangs (s := atRead dec d b ws s) rfl hr]
      exact ⟨by simp, fun t h => by cases h; exact ⟨b, rfl⟩⟩
    | .err e :: rs =>
      rw [runPhases_s6_fails (s := atRead dec d a ws s) rfl hr, runPhases_s6_fails (s := atRead dec d b ws s) rfl hr]
      exact ⟨by simp, fun t h => by cases h; exact ⟨b, rfl⟩⟩
    | .short :: rs =>
      rw [runPhases_s6_short (s := atRead dec d a ws s) rfl hr, runPhases_s6_short (s := atRead dec d b ws s) rfl hr]
      exact ⟨by simp, fun t h => by cases h; exact ⟨b, rfl⟩⟩
    | .bytes bs :: rs =>
      rcases Nat.lt_trichotomy bs.length d.rlen with hlt | heq | hgt
      · rw [runPhases_s6_few (s := atRead dec d a ws s) rfl hr hlt, runPhases_s6_few (s := atRead dec d b ws s) rfl hr hlt]
        exact ⟨by simp, fun t h => by cases h; exact ⟨b, rfl⟩⟩
      · cases he : s.cfgEnforce
        · rw [runPhases_s6_unvalidated (s := atRead dec d a ws s) rfl hr heq he, runPhases_s6_unvalidated (s := atRead dec d b ws s) rfl hr heq he]
          exact ⟨by simp, fun t h => by cases h; exact ⟨b, rfl⟩⟩
        · by_cases hv : rcvOf bs = calcOf bs
          · rw [runPhases_s6_valid (s := atRead dec d a ws s) rfl hr heq he hv, runPhases_s6_valid (s := atRead dec d b ws s) rfl hr heq he hv]
            exact ⟨by simp, fun t h => by cases h; exact ⟨_, rfl⟩⟩
          · rw [runPhases_s6_mismatch (s := atRead dec d a ws s) rfl hr heq he hv, runPhases_s6_mismatch (s := atRead dec d b ws s) rfl hr heq he hv]
            exact ⟨by simp, fun t h => by cases h; exact ⟨_, rfl⟩⟩
      · rw [runPhases_s6_overlong (s := atRead dec d a ws s) rfl hr hgt, runPhases_s6_overlong (s := atRead dec d b ws s) rfl hr hgt]
        exact ⟨by simp, by simp⟩

end Sys2Proof.Machine
end

