-- ==== Sys2Proof/Laws/Invariant.lean ====
section
/-! SUPPORT. Lemmas of traces and of the invariant over the moves of the sequencer. -/

namespace Sys2Proof.Machine

theorem traceFrom_append (a : BusAddr) (t : TraceAt) (x y : List Event) : traceFrom a t (x ++ y) = (traceFrom a t x).bind fun u => traceFrom a u y := by
  simp [traceFrom, List.foldlM_append]

theorem traceEnd_append (a : BusAddr) (x y : List Event) : traceEnd a (x ++ y) = (traceEnd a x).bind fun u => traceFrom a u y := traceFrom_append _ _ _ _

theorem frame_length (op : Word) (pay : List Word) : (frame op pay).length = 2 + 3 * pay.length := by
  have : (pay.flatMap attach).length = 3 * pay.length := by
    induction pay with
    | nil => rfl
    | cons w ws ih => simp [ih]; omega
  simp [frame, this]

theorem frameLength_frame (op : Word) (pay : List Word) : frameLength (frame op pay).length = true := by
  simp [frame_length, frameLength]

/-- A move of `PH` keeps the invariant. -/
theorem phaseStep_keeps_inv (s t : State) (hi : s.Inv) (h : phaseStep s = .next t) : t.Inv := by
  obtain ⟨busy_iff, no_result, recipe, rlen_mod, tx_phase, rx_phase, lists, lists_phase, validated, trace⟩ := hi
  have del : ∀ (s0 : State) (r : Result), s0.rcvs.length = s0.calcs.length → traceEnd s0.cfgAddr s0.ev ≠ none → (deliver r s0).Inv := by
    intro s0 r h1 h2
    constructor <;> simp_all [deliver, rxInPhase, traceInPhase]
  obtain ⟨p, hp⟩ : ∃ p, s.ph = p := ⟨_, rfl⟩
  cases p with
  | idle => rw [phaseStep_idle hp] at h; cases h; exact ⟨busy_iff, no_result, recipe, rlen_mod, tx_phase, rx_phase, lists, lists_phase, validated, trace⟩
  | s1 =>
    rw [phaseStep_s1 hp] at h; cases h
    constructor <;> simp_all [stepS1, rxInPhase, traceInPhase, txInPhase, State.setPh, State.setTx]
  | s2 =>
    rw [phaseStep_s2 hp] at h; cases h
    obtain ⟨acc, he⟩ := appendWords_spec s.desc.pay s
    rw [stepS2, he]
    constructor <;> simp_all [rxInPhase, traceInPhase, txInPhase, State.setPh, frame]
  | s3 =>
    rw [phaseStep_s3 hp] at h; cases h
    simp only [hp, traceInPhase, txInPhase, rxInPhase] at trace tx_phase rx_phase
    obtain ⟨u, hu⟩ := Option.ne_none_iff_exists'.mp trace
    have htx := tx_phase (by simp)
    obtain ⟨_, h⟩ | ⟨rest, hw, h⟩ | ⟨e, k, rest, hw, h⟩ := stepS3_cases s <;> rw [h]
    · exact ⟨busy_iff, no_result, recipe, rlen_mod, by simpa [hp, txInPhase] using tx_phase, by simpa [hp, rxInPhase], lists, lists_phase, validated, by simpa [hp, traceInPhase]⟩
    · have : traceEnd s.cfgAddr (s.ev ++ [.write s.cfgAddr s.tx .ok]) = some .written := by
        rw [traceEnd_append, hu, htx]; simp [traceFrom, traceNext, frameLength_frame]
      constructor <;> simp_all [rxInPhase, traceInPhase, txInPhase, State.setPh, transportWrite, WriteAnswer.outcome]
    · apply del
      · exact lists
      · have : traceEnd s.cfgAddr (s.ev ++ [.write s.cfgAddr s.tx (.err e)]) = some .between := by
          rw [traceEnd_append, hu, htx]; simp [traceFrom, traceNext, frameLength_frame]
        simp [transportWrite, WriteAnswer.outcome, this]
  | s4 =>
    rw [phaseStep_s4 hp] at h; cases h
    rw [stepS4, timerSleep_eq]
    simp only [hp, traceInPhase, txInPhase, rxInPhase] at trace tx_phase rx_phase
    have : traceEnd s.cfgAddr (s.ev ++ waitEvents s.desc.wait) = some (if s.desc.wait = 0 then .written else .waited) := by
      rw [traceEnd_append, trace]
      by_cases hw : s.desc.wait = 0 <;> simp [waitEvents, hw, traceFrom, traceNext]
    constructor <;> simp_all [rxInPhase, traceInPhase, txInPhase, State.setPh]
  | s5 =>
    rw [phaseStep_s5 hp] at h; cases h; unfold stepS5
    simp only [hp, traceInPhase, txInPhase, rxInPhase] at trace tx_phase rx_phase
    split
    · apply del
      · exact lists
      · simp [trace]
    · constructor <;> simp_all [rxInPhase, traceInPhase, txInPhase, State.setPh]
  | s6 =>
    rw [phaseStep_s6 hp] at h
    simp only [hp, traceInPhase, txInPhase, rxInPhase] at trace tx_phase rx_phase
    have hm := rlen_mod (by simp [hp])
    have tr : ∀ o : ReadOutcome, o.within s.desc.rlen = true → traceEnd s.cfgAddr (s.ev ++ [.read s.cfgAddr s.desc.rlen o]) = some .between := by
      intro o ho
      rw [traceEnd_append, trace.2]
      by_cases hw : s.desc.wait = 0 <;> simp [hw, traceFrom, traceNext, trace.1, hm, ho]
    obtain ⟨hr, h'⟩ | ⟨o, rest, hr, ⟨e, rfl, h'⟩ | ⟨rfl, h'⟩ | ⟨bs, rfl, ⟨hl, h'⟩ | ⟨hl, h'⟩ | ⟨hl, h'⟩⟩⟩ := stepS6_cases s <;> rw [h'] at h <;> cases h
    · exact ⟨busy_iff, no_result, recipe, rlen_mod, by simpa [hp, txInPhase] using tx_phase, by simpa [hp, rxInPhase], lists, lists_phase, validated, by simpa [hp, traceInPhase] using trace⟩
    · apply del
      · exact lists
      · exact ne_of_eq_of_ne (tr _ rfl) (by simp)
    · apply del
      · exact lists
      · exact ne_of_eq_of_ne (tr _ rfl) (by simp)
    · apply del
      · exact lists
      · exact ne_of_eq_of_ne (tr (.bytes bs) (by simp [ReadOutcome.within]; omega)) (by simp)
    · have := tr (.bytes bs) (by simp [ReadOutcome.within]; omega)
      constructor <;> simp_all [rxInPhase, traceInPhase, txInPhase, State.setPh, State.setRx, transportRead]
  | s7 =>
    rw [phaseStep_s7 hp] at h; cases h
    simp only [hp, traceInPhase, txInPhase, rxInPhase] at trace tx_phase rx_phase
    obtain ⟨he, h⟩ | ⟨he, hv, h⟩ | ⟨he, hv, h⟩ := stepS7_cases s <;> rw [h]
    · constructor <;> simp_all [rxInPhase, traceInPhase, txInPhase, State.setPh]
    · constructor <;> simp_all [rxInPhase, traceInPhase, txInPhase, State.setPh, runValidation, validate_eq_valid_iff]
    · apply del
      · exact rcvOf_length_eq_calcOf_length _
      · show traceEnd s.cfgAddr s.ev ≠ none
        simp [trace]
  | s8 =>
    rw [phaseStep_s8 hp] at h; cases h
    simp only [hp, traceInPhase, txInPhase, rxInPhase] at trace tx_phase rx_phase
    apply del
    · exact lists
    · simp [trace]

theorem acceptExec_inv (dec : Option Decoder) (d : Desc) (s : State) (hi : s.Inv) (hp : s.busy = false) (hm : d.rlen % 3 = 0) (hd : ∀ x, dec = some x → d.rlen = x.rlen) : (acceptExec dec d s).Inv := by
  obtain ⟨busy_iff, no_result, recipe, rlen_mod, tx_phase, rx_phase, lists, lists_phase, validated, trace⟩ := hi
  have hi : s.ph = .idle := by by_contra h; simp [hp] at busy_iff; exact h busy_iff
  simp only [hi, traceInPhase] at trace
  constructor <;> simp_all [acceptExec, accept, rxInPhase, traceInPhase, txInPhase]

theorem presentExec_keeps_inv (dec d s t) (hi : State.Inv s) (hd : ∀ x, dec = some x → d.rlen = x.rlen) (h : presentExec dec d s = .next t) : t.Inv := by
  have hb := (presentExec_next h).1
  have hm := (presentExec_next h).2.1
  rw [presentExec_ready hb hm] at h
  exact runPhases_keeps (P := State.Inv) phaseStep_keeps_inv 8 _ t (acceptExec_inv dec d s hi hb hm hd) h

end Sys2Proof.Machine
end

