-- ==== Sys2Proof/Laws/Operands.lean ====
section
/-! SUPPORT. Lemmas of the host layer's operand forms: rounding and words. -/

namespace Sys2Proof.Machine

theorem quantity_den_pos (q : Quantity) : (0:Int) < (q.den : Int) := by simp [Quantity.den]

/-- A natural number below 65 536 is the payload word of that value. -/
theorem toWord_nat (n : Nat) (h : n ≤ 65535) : toWord (n : Int) = some (BitVec.ofNat 16 n) := by
  simp [toWord]; omega

/-- Rounding goes to the nearest integer; at a tie to one of the two neighbours. -/
theorem roundNearest_spec (n : Int) (d : Nat) (hd : 0 < d) (b : Bool) : 
   (isTie n d = false → 2 * roundNearest b n d * d - d < 2 * n ∧ 2 * n < 2 * roundNearest b n d * d + d) ∧
   (isTie n d = true → 2 * n = 2 * (n / d) * d + d ∧ (roundNearest b n d = n / d ∨ roundNearest b n d = n / d + 1)) := by
  have h0 := Int.emod_nonneg n (show (d:Int) ≠ 0 by omega)
  have h1 := Int.emod_lt_of_pos n (show (0:Int) < d by omega)
  have h2 := Int.mul_ediv_add_emod n d
  have h3 : (d:Int) * (n / d) = n / d * d := mul_comm _ _
  unfold isTie roundNearest
  constructor
  · intro h
    have h : 2 * (n % d) ≠ d := by simpa using h
    split
    · constructor <;> nlinarith
    · constructor <;> nlinarith [show 2 * (n % d) > d by omega]
  · intro h
    have h : 2 * (n % d) = d := by simpa using h
    rw [if_neg (by omega), if_pos h]
    refine ⟨by nlinarith, ?_⟩
    cases b <;> simp

end Sys2Proof.Machine
end

