-- ==== Sys2Proof/Laws/PerInstr.lean ====
section
/-! SUPPORT. Statements made of every instruction, one lemma per constructor. -/

namespace Sys2Proof.Laws

/-- The fixed bytes of an instruction's record, written out from spec/opcode_table.json: the `OPSEL` code of a block
operation (30_encoding.md R87), the opcode of a catalogue call (Table R89). -/
def tableHead : Instr → List Byte
  | .csum _ => [0]
  | .frame _ _ => [1]
  | .valid _ => [2]
  | .exec _ _ _ _ => [3]
  | .saveConfig => [0x36, 0x15]
  | .getId => [0x36, 0x82]
  | .execSelfTest => [0x36, 0x39]
  | .reinit => [0x36, 0x46]
  | .setTemperatureOffset _ => [0x24, 0x1D]
  | .getTemperatureOffset => [0x23, 0x18]
  | .setAltitude _ => [0x24, 0x27]
  | .getAltitude => [0x23, 0x22]
  | .setAmbientPressure _ => [0xE0, 0x00]
  | .periodicMeasurementStartLowPower => [0x21, 0xAC]
  | .periodicMeasurementStartNormal => [0x21, 0xB1]
  | .periodicMeasurementStop _ => [0x3F, 0x86]
  | .isDataReady => [0xE4, 0xB8]

/-- The record begins with the table's fixed bytes. -/
def TableHead.Statement (i : Instr) : Prop := ∃ operands, encode i = tableHead i ++ operands

namespace TableHead

theorem csum (bs : List Byte) : Statement (.csum bs) := ⟨_, rfl⟩
theorem frame (op : Word) (pay : List Word) : Statement (.frame op pay) := ⟨_, rfl⟩
theorem valid (buf : List Byte) : Statement (.valid buf) := ⟨_, rfl⟩
theorem exec (op : Word) (pay : List Word) (wait rlen : Nat) : Statement (.exec op pay wait rlen) := ⟨_, rfl⟩
theorem saveConfig : Statement (.saveConfig) := ⟨_, rfl⟩
theorem getId : Statement (.getId) := ⟨_, rfl⟩
theorem execSelfTest : Statement (.execSelfTest) := ⟨_, rfl⟩
theorem reinit : Statement (.reinit) := ⟨_, rfl⟩
theorem setTemperatureOffset (q : Quantity) : Statement (.setTemperatureOffset q) := ⟨_, rfl⟩
theorem getTemperatureOffset : Statement (.getTemperatureOffset) := ⟨_, rfl⟩
theorem setAltitude (q : Quantity) : Statement (.setAltitude q) := ⟨_, rfl⟩
theorem getAltitude : Statement (.getAltitude) := ⟨_, rfl⟩
theorem setAmbientPressure (q : Quantity) : Statement (.setAmbientPressure q) := ⟨_, rfl⟩
theorem periodicMeasurementStartLowPower : Statement (.periodicMeasurementStartLowPower) := ⟨_, rfl⟩
theorem periodicMeasurementStartNormal : Statement (.periodicMeasurementStartNormal) := ⟨_, rfl⟩
theorem periodicMeasurementStop (w : Nat) : Statement (.periodicMeasurementStop w) := ⟨_, rfl⟩
theorem isDataReady : Statement (.isDataReady) := ⟨_, rfl⟩

end TableHead

end Sys2Proof.Laws
end

