-- ==== Sys2Proof/Laws/Step.lean ====
section
/-! SUPPORT. What one step of the machine is, by phase and by the host's next act. -/

namespace Sys2Proof.Machine

theorem step_idle_waiting {s : State} (hp : s.ph = .idle) (hh : s.host = []) : step s = .next s := by
  simp [step, hp, hh]

theorem step_idle_serves {s : State} {a : HostAction} {rest : List HostAction} (hp : s.ph = .idle)
    (hh : s.host = a :: rest) : step s = serve a { s with host := rest } := by
  simp [step, hp, hh]

theorem step_in_operation {s : State} (hp : s.ph ≠ .idle) : step s = phaseStep s := by
  unfold step; split
  · contradiction
  · rfl

theorem run_succ_next {s t : State} (h : step s = .next t) (n : Nat) :
    Host.Core.run Sys2Proof.core (n + 1) s = Host.Core.run Sys2Proof.core n t := by
  have h' : Sys2Proof.core.step s = .next t := h
  simp [Host.Core.run, h']

/-- A state that a step leaves as it is stays for any number of steps. -/
theorem run_of_fixed {s : State} (h : step s = .next s) (n : Nat) : Host.Core.run Sys2Proof.core n s = .next s := by
  induction n with
  | zero => rfl
  | succ n ih => rw [run_succ_next h, ih]

end Sys2Proof.Machine
end

