-- ==== Sys2Proof/Machine/Flags.lean ====
section
/-! DEFINITION. CWF has no flags and no condition codes (10_state.md R33): no operation sets or reads one. The only
status the host sees is the result, whose kinds the spec numbers for a result register (60_exceptions.md R244). -/

namespace Sys2Proof.Machine

/-- The status code of a result (60_exceptions.md R244). The numbers carry no meaning. -/
def Result.code : Result → Nat
  | .ok _ => 0
  | .err (.shortResponse _ _) => 1
  | .err (.checksumMismatch _ _) => 2
  | .err (.transportError _) => 3

end Sys2Proof.Machine
end

