-- ==== Sys2Proof/Tests/Slice0.lean ====
section
/-! SUPPORT. Tests: ill-formed terms, words written out from the encoding tables, one step on small states with the values
of 95_test_vectors.md, and for each statement a case that meets its hypotheses. -/

namespace Sys2Proof.Tests

open Sys2Proof Sys2Proof.Machine Sys2Proof.Claims

set_option maxRecDepth 20000

/-! ### Well-formedness (30_encoding.md R93, 00_scope.md Table R9) -/

theorem test_ill_formed_valid : (Instr.valid [0x01, 0x02]).wellFormed = false := by decide
theorem test_ill_formed_exec : (Instr.exec 0x2322 [] 1 4).wellFormed = false := by decide
theorem test_ill_formed_stop : (Instr.periodicMeasurementStop 501).wellFormed = false := by decide
theorem test_well_formed_stop : (Instr.periodicMeasurementStop 500).wellFormed = true := by decide

/-! ### Decoding: the words of 30_encoding.md Table R85 and Table R89, bit by bit -/

theorem test_decode_csum : decodeRecord [0b00#8, 2, 0xBE, 0xEF] = .ok (.csum [0xBE, 0xEF]) := by decide
theorem test_decode_frame :
    decodeRecord [0b01#8, 0x24, 0x27, 1, 0x01, 0xF4] = .ok (.frame 0x2427 [0x01F4]) := by decide
theorem test_decode_valid : decodeRecord [0b10#8, 3, 0x01, 0xF4, 0x33] = .ok (.valid [0x01, 0xF4, 0x33]) := by decide
theorem test_decode_exec :
    decodeRecord [0b11#8, 0x36, 0x15, 0, 0xA0, 0x06, 0] = .ok (.exec 0x3615 [] 800 0) := by decide
theorem test_decode_save_config : decodeTableWord 16 0b0011011000010101 = some .saveConfig := by decide
theorem test_decode_get_id : decodeTableWord 16 0b0011011010000010 = some .getId := by decide
theorem test_decode_exec_self_test : decodeTableWord 16 0b0011011000111001 = some .execSelfTest := by decide
theorem test_decode_reinit : decodeTableWord 16 0b0011011001000110 = some .reinit := by decide
theorem test_decode_set_temperature_offset :
    decodeRecord [0b00100100#8, 0b00011101#8, 0, 5, 1] = .ok (.setTemperatureOffset ⟨5, 1⟩) := by decide
theorem test_decode_get_temperature_offset :
    decodeTableWord 16 0b0010001100011000 = some .getTemperatureOffset := by decide
theorem test_decode_set_altitude :
    decodeRecord [0b00100100#8, 0b00100111#8, 1, 7, 0] = .ok (.setAltitude ⟨-7, 0⟩) := by decide
theorem test_decode_get_altitude : decodeTableWord 16 0b0010001100100010 = some .getAltitude := by decide
theorem test_decode_set_ambient_pressure :
    decodeRecord [0b11100000#8, 0b00000000#8, 0, 0xCD, 0x97, 0x06, 0] = .ok (.setAmbientPressure ⟨101325, 0⟩) := by
  decide
theorem test_decode_start_low_power :
    decodeTableWord 16 0b0010000110101100 = some .periodicMeasurementStartLowPower := by decide
theorem test_decode_start_normal :
    decodeTableWord 16 0b0010000110110001 = some .periodicMeasurementStartNormal := by decide
theorem test_decode_stop :
    decodeRecord [0b00111111#8, 0b10000110#8, 0xF4, 0x03] = .ok (.periodicMeasurementStop 500) := by decide
theorem test_decode_is_data_ready : decodeTableWord 16 0b1110010010111000 = some .isDataReady := by decide

theorem test_decode_unknown : decodeRecord [0x12, 0x34] = .error (.unknownOperation 0x12 0x34) := by decide
theorem test_decode_trailing : decodeRecord [0x36, 0x15, 0x00] = .error .trailingBytes := by decide
theorem test_decode_overlong : decodeRecord [0x3F, 0x86, 0x80, 0x00] = .error .overlongNumber := by decide

/-! ### One step on small states -/

/-- An idle block at address 0x62 with these answers of the transport waiting. -/
def start (enforce : Bool) (ws : List WriteAnswer) (rs : List ReadOutcome) : State :=
  { State.resetWith 0x62 enforce with writeAnswers := ws, readAnswers := rs }

/-- What the host and the transport see of an outcome: the result, the value returned, the trace. -/
def seen : Host.Outcome State Fault Refusal → Option (Option Result × Option HostResult × List Event)
  | .next t => some (t.res, t.ret, t.ev)
  | .fault _ => none
  | .refused _ => none

/-- The reason of a refusal. -/
def refusal : Host.Outcome State Fault Refusal → Option Refusal
  | .next _ => none
  | .fault _ => none
  | .refused r => some r

/-- 95_test_vectors.md section 2.1. -/
theorem test_csum : seen (exec (.csum [0xBE, 0xEF]) (start true [] [])) = some (some (.ok (.byte 0x92)), none, []) := by
  decide
/-- 95_test_vectors.md section 2.1: the ASCII digits. -/
theorem test_csum_digits : crc8 [0x31, 0x32, 0x33, 0x34, 0x35, 0x36, 0x37, 0x38, 0x39] = 0xF7 := by decide
/-- 95_test_vectors.md section 3.3: two words, each with its own checksum. -/
theorem test_frame : seen (exec (.frame 0x1234 [0xBEEF, 0x0000]) (start true [] []))
    = some (some (.ok (.bytes [0x12, 0x34, 0xBE, 0xEF, 0x92, 0x00, 0x00, 0x81])), none, []) := by decide
/-- 95_test_vectors.md section 4.1. -/
theorem test_valid : seen (exec (.valid [0xF8, 0x96, 0x31, 0x9F, 0x07, 0xC2, 0x3B, 0xBE, 0x89]) (start false [] []))
    = some (some (.ok (.words [0xF896, 0x9F07, 0x3BBE])), none, []) := by decide
/-- 95_test_vectors.md section 4.3: validated although enforcement is off. -/
theorem test_valid_mismatch : seen (exec (.valid [0xF8, 0x96, 0x31, 0x9F, 0x07, 0x00, 0x3B, 0xBE, 0x89]) (start false [] []))
    = some (some (.err (.checksumMismatch [0x31, 0x00, 0x89] [0x31, 0xC2, 0x89])), none, []) := by decide
/-- 95_test_vectors.md E18: payload and response in one operation. -/
theorem test_exec : seen (exec (.exec 0x1234 [0xBEEF, 0x0000] 5 6)
      (start true [.ok] [.bytes [0xBE, 0xEF, 0x92, 0x00, 0x00, 0x81]]))
    = some (some (.ok (.bytes [0xBE, 0xEF, 0x92, 0x00, 0x00, 0x81])), none,
        [.write 0x62 [0x12, 0x34, 0xBE, 0xEF, 0x92, 0x00, 0x00, 0x81] .ok, .wait 5,
         .read 0x62 6 (.bytes [0xBE, 0xEF, 0x92, 0x00, 0x00, 0x81])]) := by decide
/-- 95_test_vectors.md E11: short with enforcement off. -/
theorem test_exec_short : seen (exec (.exec 0x2322 [] 1 3) (start false [.ok] [.bytes [0x01]]))
    = some (some (.err (.shortResponse 3 (.received 1))), none,
        [.write 0x62 [0x23, 0x22] .ok, .wait 1, .read 0x62 3 (.bytes [0x01])]) := by decide
/-- 95_test_vectors.md section 6. -/
theorem test_save_config : seen (exec .saveConfig (start true [.ok] []))
    = some (some (.ok .nothing), some (.ok .nothing), [.write 0x62 [0x36, 0x15] .ok, .wait 800]) := by decide
/-- 95_test_vectors.md section 6. -/
theorem test_get_id : seen (exec .getId
      (start true [.ok] [.bytes [0xF8, 0x96, 0x31, 0x9F, 0x07, 0xC2, 0x3B, 0xBE, 0x89]]))
    = some (some (.ok (.bytes [0xF8, 0x96, 0x31, 0x9F, 0x07, 0xC2, 0x3B, 0xBE, 0x89])),
        some (.ok (.triple 0xF896 0x9F07 0x3BBE)),
        [.write 0x62 [0x36, 0x82] .ok, .wait 1,
         .read 0x62 9 (.bytes [0xF8, 0x96, 0x31, 0x9F, 0x07, 0xC2, 0x3B, 0xBE, 0x89])]) := by decide
/-- 95_test_vectors.md section 6: the 48-bit serial number. -/
theorem test_get_id_serial : serial48 0xF896 0x9F07 0x3BBE = 0xF8969F073BBE := by decide
/-- 95_test_vectors.md section 6. -/
theorem test_exec_self_test : seen (exec .execSelfTest (start true [.ok] [.bytes [0x00, 0x01, 0xB0]]))
    = some (some (.ok (.bytes [0x00, 0x01, 0xB0])), some (.ok (.flag false)),
        [.write 0x62 [0x36, 0x39] .ok, .wait 10000, .read 0x62 3 (.bytes [0x00, 0x01, 0xB0])]) := by decide
/-- 95_test_vectors.md section 6. -/
theorem test_reinit : seen (exec .reinit (start true [.ok] []))
    = some (some (.ok .nothing), some (.ok .nothing), [.write 0x62 [0x36, 0x46] .ok, .wait 20]) := by decide
/-- 95_test_vectors.md section 6: 2.5 degrees. -/
theorem test_set_temperature_offset : seen (exec (.setTemperatureOffset ⟨5, 1⟩) (start true [.ok] []))
    = some (some (.ok .nothing), some (.ok .nothing),
        [.write 0x62 [0x24, 0x1D, 0x03, 0xA8, 0xE9] .ok, .wait 1]) := by decide
/-- 95_test_vectors.md section 6: 10.0 degrees is rounded up to 3745. -/
theorem test_set_temperature_offset_up : seen (exec (.setTemperatureOffset ⟨10, 0⟩) (start true [.ok] []))
    = some (some (.ok .nothing), some (.ok .nothing),
        [.write 0x62 [0x24, 0x1D, 0x0E, 0xA1, 0x21] .ok, .wait 1]) := by decide
/-- 95_test_vectors.md section 6: 1498 times 175 / 65536. -/
theorem test_get_temperature_offset : seen (exec .getTemperatureOffset (start true [.ok] [.bytes [0x05, 0xDA, 0x29]]))
    = some (some (.ok (.bytes [0x05, 0xDA, 0x29])), some (.ok (.number ⟨262150, 65535⟩)),
        [.write 0x62 [0x23, 0x18] .ok, .wait 1, .read 0x62 3 (.bytes [0x05, 0xDA, 0x29])]) := by decide
/-- 95_test_vectors.md section 6. -/
theorem test_set_altitude : seen (exec (.setAltitude ⟨500, 0⟩) (start true [.ok] []))
    = some (some (.ok .nothing), some (.ok .nothing),
        [.write 0x62 [0x24, 0x27, 0x01, 0xF4, 0x33] .ok, .wait 1]) := by decide
/-- 95_test_vectors.md section 6. -/
theorem test_get_altitude : seen (exec .getAltitude (start true [.ok] [.bytes [0x01, 0xF4, 0x33]]))
    = some (some (.ok (.bytes [0x01, 0xF4, 0x33])), some (.ok (.number ⟨500, 0⟩)),
        [.write 0x62 [0x23, 0x22] .ok, .wait 1, .read 0x62 3 (.bytes [0x01, 0xF4, 0x33])]) := by decide
/-- 95_test_vectors.md section 6, error propagation. -/
theorem test_get_altitude_mismatch : seen (exec .getAltitude (start true [.ok] [.bytes [0x01, 0x02, 0x03]]))
    = some (some (.err (.checksumMismatch [0x03] [0x17])), some (.err (.checksumMismatch [0x03] [0x17])),
        [.write 0x62 [0x23, 0x22] .ok, .wait 1, .read 0x62 3 (.bytes [0x01, 0x02, 0x03])]) := by decide
/-- 95_test_vectors.md section 6: rounded down, not to the nearest. -/
theorem test_set_ambient_pressure : seen (exec (.setAmbientPressure ⟨99999, 0⟩) (start true [.ok] []))
    = some (some (.ok .nothing), some (.ok .nothing),
        [.write 0x62 [0xE0, 0x00, 0x03, 0xE7, 0xFA] .ok, .wait 1]) := by decide
/-- 95_test_vectors.md section 6. -/
theorem test_start_low_power : seen (exec .periodicMeasurementStartLowPower (start true [.ok] []))
    = some (some (.ok .nothing), some (.ok .nothing), [.write 0x62 [0x21, 0xAC] .ok]) := by decide
/-- 95_test_vectors.md section 6. -/
theorem test_start_normal : seen (exec .periodicMeasurementStartNormal (start true [.ok] []))
    = some (some (.ok .nothing), some (.ok .nothing), [.write 0x62 [0x21, 0xB1] .ok]) := by decide
/-- 44_catalog.md R221, `STOP_WAIT_MS` = 500. -/
theorem test_stop : seen (exec (.periodicMeasurementStop 500) (start true [.ok] []))
    = some (some (.ok .nothing), some (.ok .nothing), [.write 0x62 [0x3F, 0x86] .ok, .wait 500]) := by decide
/-- 95_test_vectors.md section 6: bit 11 is outside the mask. -/
theorem test_is_data_ready_high_bit : seen (exec .isDataReady (start true [.ok] [.bytes [0x08, 0x00, 0xB6]]))
    = some (some (.ok (.bytes [0x08, 0x00, 0xB6])), some (.ok (.flag false)),
        [.write 0x62 [0xE4, 0xB8] .ok, .wait 1, .read 0x62 3 (.bytes [0x08, 0x00, 0xB6])]) := by decide
/-- 95_test_vectors.md section 6: bit 10 is inside the mask. -/
theorem test_is_data_ready_mask : readyOf 0x0400 = true := by decide
/-- 95_test_vectors.md S6: soft_reset emits nothing. -/
theorem test_soft_reset : seen (step { start true [.ok] [] with host := [.softReset] })
    = some (none, some (.ok .nothing), []) := by decide
/-- A table word placed for the fetch runs as the first thing after reset. -/
theorem test_fetch_word : seen (step (State.reset.withFetchWord 8 0x0))
    = some (some (.ok (.byte 0xFF)), none, []) := by decide
/-- 10_state.md R39: after reset the block waits for the first operation. -/
theorem test_reset_waits : step State.reset = .next State.reset := by rfl
/-- 60_exceptions.md R244. -/
theorem test_result_codes : ((Result.err (.shortResponse 3 .signalled)).code, (Result.ok .nothing).code) = (1, 0) := by
  decide

/-! ### The hypotheses of the statements are met -/

/-- A state in a given phase of an EXEC, with the frame of get_altitude built. -/
def inPhase (p : Phase) (rlen : Nat) (ws : List WriteAnswer) (rs : List ReadOutcome) : State :=
  { start true ws rs with
    ph := p, busy := true, desc := ⟨0x2322, [], 1, rlen⟩, tx := txInPhase ⟨0x2322, [], 1, rlen⟩ p }

theorem witness_BlockErrorDetection : (Block.mk 0xBE 0xEF 0x92).check = true
    ∧ weight 0x800000 = 1 ∧ weight 0x800003 = 3 ∧ weight 0x80000F % 2 = 1 ∧ isBurst 0xFF0000 ∧ isBurst 0x000001 :=
  ⟨by decide, by decide, by decide, by decide, ⟨0xFF, 16, by decide⟩, ⟨0x01, 0, by decide⟩⟩
theorem witness_CsumCompletes : (start true [] []).busy = false := by decide
theorem witness_FrameCompletes : (start false [.ok] []).busy = false := by decide
theorem witness_FrameLayout : ([0x0001, 0x07FF] : List Word)[1]? = some 0x07FF := by decide
theorem witness_WordsRoundTrip : ∃ b, b ∈ partition (attach 0xBEEF) := ⟨⟨0xBE, 0xEF, 0x92⟩, by decide⟩
theorem witness_BufferAccesses :
    let s := { start true [] [] with rx := [0x01, 0xF4, 0x33], tx := [0x24, 0x27] }
    s.rx[0]? = some 0x01 ∧ s.rx[0 + 1]? = some 0xF4 ∧ s.rx[2]? = some 0x33 ∧ 0 ≤ s.tx.length ∧ 2 ≤ s.tx.length := by
  decide
theorem witness_ValidationLists : let buf : List Byte := [0xBE, 0xEF, 0x92, 0x00, 0x00, 0x81]
    buf.length = 3 * 2 ∧ buf[3 * 0]? = some 0xBE ∧ buf[3 * 1]? = some 0x00 ∧ buf[3 * 1 + 1]? = some 0x00
    ∧ buf[3 * 1 + 2]? = some 0x81 := by decide
theorem witness_BlocksAreIndependent :
    let x : List Byte := [0xBE, 0xEF, 0x92, 0x00, 0x00, 0x81]; let y : List Byte := [0x01, 0x02, 0x03, 0x00, 0x00, 0x81]
    x.length = 3 * 2 ∧ y.length = 3 * 2 ∧ x[3 * 1]? = y[3 * 1]? ∧ x[3 * 1 + 1]? = y[3 * 1 + 1]?
    ∧ x[3 * 1 + 2]? = y[3 * 1 + 2]? ∧ x ≠ y := by decide
theorem witness_ValidCompletes : (start true [] []).busy = false ∧ ([] : List Byte).length % 3 = 0
    ∧ ([0x01, 0x02, 0x03] : List Byte).length % 3 = 0 ∧ ([0x01, 0x02] : List Byte).length % 3 ≠ 0 := by decide
theorem witness_StepsOneAndTwoBuildFrame : (inPhase .s1 3 [] []).ph = .s1 ∧ (inPhase .s2 3 [] []).ph = .s2 := by decide
theorem witness_StepThreeWrites : (inPhase .s3 3 [] []).ph = .s3 ∧ (inPhase .s3 3 [] []).writeAnswers = []
    ∧ (inPhase .s3 3 [.ok] []).writeAnswers = .ok :: [] ∧ (inPhase .s3 3 [.err ⟨7⟩ 1] []).writeAnswers = .err ⟨7⟩ 1 :: [] := by
  decide
theorem witness_StepsFourAndFive : (inPhase .s4 3 [] []).ph = .s4 ∧ (inPhase .s5 0 [] []).ph = .s5
    ∧ (inPhase .s5 0 [] []).desc.rlen = 0 ∧ (inPhase .s5 3 [] []).ph = .s5 ∧ (inPhase .s5 3 [] []).desc.rlen ≠ 0 := by
  decide
theorem witness_StepSixReads : (inPhase .s6 3 [] []).ph = .s6 ∧ (inPhase .s6 3 [] []).readAnswers = []
    ∧ (inPhase .s6 3 [] [.err ⟨7⟩]).readAnswers = .err ⟨7⟩ :: [] ∧ (inPhase .s6 3 [] [.short]).readAnswers = .short :: []
    ∧ (inPhase .s6 3 [] [.bytes [1, 2]]).readAnswers = .bytes [1, 2] :: []
    ∧ ([1, 2] : List Byte).length < (inPhase .s6 3 [] []).desc.rlen
    ∧ ([1, 2, 3] : List Byte).length = (inPhase .s6 3 [] []).desc.rlen
    ∧ (inPhase .s6 3 [] []).desc.rlen < ([1, 2, 3, 4] : List Byte).length := by decide
theorem witness_StepsSevenAndEight :
    let s := { inPhase .s7 3 [] [] with rx := [0x01, 0x02, 0x17] }
    s.ph = .s7 ∧ s.cfgEnforce = true ∧ rcvOf s.rx = calcOf s.rx
    ∧ rcvOf [0x01, 0x02, 0x03] ≠ calcOf [0x01, 0x02, 0x03] ∧ { s with cfgEnforce := false }.cfgEnforce = false
    ∧ (inPhase .s8 3 [] []).ph = .s8 := by decide
theorem witness_ExecFollowsPseudocode : (start true [.ok] []).busy = false ∧ (⟨0x2322, [], 1, 3⟩ : Desc).rlen % 3 = 0
    ∧ pseudocode 0x62 true ⟨0x2322, [], 1, 3⟩ (some .ok) (some (.bytes [1, 2, 3, 4])) = .refused
    ∧ pseudocode 0x62 true ⟨0x2322, [], 1, 3⟩ none none = .hangs .s3 []
    ∧ pseudocode 0x62 true ⟨0x2322, [], 0, 0⟩ (some .ok) none
      = .ends (.ok .nothing) [.write 0x62 [0x23, 0x22] .ok] := by decide
theorem witness_ExecFireAndForget : (start true [.ok] []).busy = false ∧ (start true [.ok] []).writeAnswers = .ok :: [] := by
  decide
theorem witness_ExecWriteFails : (start true [.err ⟨7⟩ 2] []).busy = false ∧ 0 % 3 = 0 ∧ 9 % 3 = 0
    ∧ (start true [.err ⟨7⟩ 2] []).writeAnswers = .err ⟨7⟩ 2 :: [] := by decide
theorem witness_ExecFailedReads : (start true [.ok] [.short]).busy = false ∧ 3 % 3 = 0 ∧ 3 ≠ 0
    ∧ (start true [.ok] [.short]).writeAnswers = .ok :: [] ∧ (start true [.ok] [.short]).readAnswers = .short :: []
    ∧ failedRead 3 .short = some (.shortResponse 3 .signalled)
    ∧ failedRead 3 (.bytes [1, 2]) = some (.shortResponse 3 (.received 2))
    ∧ failedRead 3 (.err ⟨7⟩) = some (.transportError ⟨7⟩) := by decide
theorem witness_ExecFullRead : let s := start true [.ok] [.bytes [0x01, 0xF4, 0x33]]
    s.busy = false ∧ ([0x01, 0xF4, 0x33] : List Byte).length % 3 = 0 ∧ ([0x01, 0xF4, 0x33] : List Byte) ≠ []
    ∧ s.writeAnswers = .ok :: [] ∧ s.readAnswers = .bytes [0x01, 0xF4, 0x33] :: [] := by decide
theorem witness_HungCallStaysForEver : (start true [] []).busy = false ∧ (start true [] []).writeAnswers = []
    ∧ (start true [.ok] []).writeAnswers = .ok :: [] ∧ (start true [.ok] []).readAnswers = [] := by decide
theorem witness_PhasesComposeToExec : (start true [.ok] []).busy = false ∧ (start true [.ok] []).host = [] := by decide
theorem witness_EnforcementOnlyGatesValidation :
    let s := start true [.ok] [.bytes [0x01, 0x02, 0x03]]
    (∃ t, exec (.exec 0x2322 [] 1 3) { s with cfgEnforce := false } = .next t)
    ∧ ∃ u, exec (.exec 0x2322 [] 1 3) { s with cfgEnforce := true } = .next u := ⟨⟨_, rfl⟩, ⟨_, rfl⟩⟩
theorem witness_BusyRefusesEveryOperation : (inPhase .s6 3 [] []).busy = true := by decide
theorem witness_BadOperandsRefused : (start true [] []).busy = false ∧ 1 % 3 ≠ 0 ∧ 500 < 501 := by decide
theorem witness_OperationsKeepConfiguration : (∃ t, exec (.csum [0x01]) (start true [] []) = .next t)
    ∧ ∀ q, Instr.csum [0x01] ≠ .setTemperatureOffset q := ⟨⟨_, rfl⟩, by intro q; simp⟩
theorem witness_OperationDeliversOrHangs : (∃ t, exec .reinit (start true [.ok] []) = .next t)
    ∧ ∃ t, exec .reinit (start true [] []) = .next t := ⟨⟨_, rfl⟩, ⟨_, rfl⟩⟩
theorem witness_OneOperationTrace : ∃ t, exec .reinit (start true [.err ⟨7⟩ 0] []) = .next t := ⟨_, rfl⟩
theorem witness_ResultIndependentOfScratch : (∃ t, exec .getAltitude (start true [.ok] [.short]) = .next t)
    ∧ exec .getAltitude (inPhase .s6 3 [] []) = .refused .busy := ⟨⟨_, rfl⟩, rfl⟩
theorem witness_CatalogIsRecipeOverExec : recipe .getAltitude = some (⟨0x2322, [], 1, 3⟩, .meters)
    ∧ (∃ t, exec (.exec 0x2322 [] 1 3) (start true [.ok] [.short]) = .next t)
    ∧ exec (.exec 0x2322 [] 1 3) (inPhase .s6 3 [] []) = .refused .busy := ⟨by decide, ⟨_, rfl⟩, rfl⟩
theorem witness_CatalogReturnsItsOutcome : isCatalog .isDataReady = true
    ∧ ∃ t, exec .isDataReady (start true [.ok] [.short]) = .next t ∧ t.ph = .idle := ⟨rfl, _, rfl, rfl⟩
theorem witness_PlainCommandsComplete : (Instr.reinit, (0x3646 : Word), 20) ∈ plainCommands
    ∧ (start true [.ok] []).busy = false ∧ (start true [.ok] []).writeAnswers = .ok :: [] := by decide
theorem witness_StopCompletes : 0 ≤ 500 ∧ 500 ≤ 500 ∧ (start true [.ok] []).busy = false ∧ (start true [.ok] []).writeAnswers = .ok :: [] := by decide
theorem witness_StartCallChoosesOpcode :
    let s := { start true [.ok] [] with modeLowPower := true, host := [.startPeriodic] }
    s.ph = .idle ∧ s.busy = false ∧ s.host = .startPeriodic :: [] ∧ s.writeAnswers = .ok :: [] := by decide
/-- 44_catalog.md R220, R224: the call's error is the write's. -/
theorem test_start_call_write_fails :
    seen (step { start true [.err ⟨7⟩ 0] [] with modeLowPower := true, host := [.startPeriodic] })
    = some (some (.err (.transportError ⟨7⟩)), some (.err (.transportError ⟨7⟩)),
        [.write 0x62 [0x21, 0xAC] (.err ⟨7⟩)]) := by decide
theorem witness_SetAltitudeCompletes : (⟨0, 0⟩ : Quantity).num = (0 : Nat) * ((⟨0, 0⟩ : Quantity).den : Int)
    ∧ (⟨131070, 1⟩ : Quantity).num = (65535 : Nat) * ((⟨131070, 1⟩ : Quantity).den : Int)
    ∧ (start true [.ok] []).busy = false ∧ (start true [.ok] []).writeAnswers = .ok :: [] := by decide
theorem witness_SetAmbientPressureCompletes : let q : Quantity := ⟨6553599, 0⟩
    ((0 : Nat) : Int) * 100 * ((⟨0, 0⟩ : Quantity).den : Int) ≤ (⟨0, 0⟩ : Quantity).num
    ∧ (⟨0, 0⟩ : Quantity).num < (((0 : Nat) : Int) + 1) * 100 * ((⟨0, 0⟩ : Quantity).den : Int)
    ∧ (start true [.ok] []).busy = false ∧ (start true [.ok] []).writeAnswers = .ok :: []
    ∧ ((65535 : Nat) : Int) * 100 * (q.den : Int) ≤ q.num ∧ q.num < (((65535 : Nat) : Int) + 1) * 100 * (q.den : Int) := by
  decide
theorem witness_SetTemperatureOffsetCompletes : let q : Quantity := ⟨4, 0⟩
    (2 * ((1498 : Nat) : Int) - 1) * (q.den * 100000000) < 2 * (q.num * 37449142857)
    ∧ 2 * (q.num * 37449142857) < (2 * ((1498 : Nat) : Int) + 1) * (q.den * 100000000)
    ∧ (2 * ((0 : Nat) : Int) - 1) * ((⟨0, 0⟩ : Quantity).den * 100000000) < 2 * ((⟨0, 0⟩ : Quantity).num * 37449142857)
    ∧ (start true [.ok] []).busy = false ∧ (start true [.ok] []).writeAnswers = .ok :: [] := by decide
theorem witness_TemperatureTieSendsNeighbour : (start true [.ok] []).busy = false ∧
    let q : Quantity := ⟨100000000, 74898285713⟩; let r : Quantity := ⟨13106900000000, 74898285713⟩
    2 * (q.num * 37449142857) = (2 * (0 : Int) + 1) * (q.den * 100000000)
    ∧ 2 * (r.num * 37449142857) = (2 * (65534 : Int) + 1) * (r.den * 100000000)
    ∧ 2 * ((⟨-100000000, 74898285713⟩ : Quantity).num * 37449142857)
      = (2 * (-1 : Int) + 1) * ((⟨-100000000, 74898285713⟩ : Quantity).den * 100000000) := by decide
theorem witness_NotAWordRefused : (⟨-1, 0⟩ : Quantity).num < 0
    ∧ (65536 : Int) * ((⟨65536, 0⟩ : Quantity).den : Int) ≤ (⟨65536, 0⟩ : Quantity).num
    ∧ (∀ n : Int, (⟨1, 1⟩ : Quantity).num ≠ n * ((⟨1, 1⟩ : Quantity).den : Int))
    ∧ (6553600 : Int) * ((⟨6553600, 0⟩ : Quantity).den : Int) ≤ (⟨6553600, 0⟩ : Quantity).num
    ∧ 2 * ((⟨-1, 0⟩ : Quantity).num * 37449142857) < -1 * (((⟨-1, 0⟩ : Quantity).den : Int) * 100000000)
    ∧ (131071 : Int) * (((⟨175, 0⟩ : Quantity).den : Int) * 100000000) < 2 * ((⟨175, 0⟩ : Quantity).num * 37449142857) :=
  ⟨by decide, by decide, by intro n; simp [Quantity.den]; omega, by decide, by decide, by decide⟩
theorem witness_GetIdCompletes : let bs : List Byte := [0xF8, 0x96, 0x31, 0x9F, 0x07, 0xC2, 0x3B, 0xBE, 0x89]
    (start true [.ok] [.bytes bs]).readAnswers = .bytes bs :: [] ∧ (start true [.ok] [.bytes bs]).busy = false
    ∧ (start true [.ok] [.bytes bs]).writeAnswers = .ok :: [] ∧ 0x31 = crc8 [0xF8, 0x96] ∧ 0xC2 = crc8 [0x9F, 0x07] ∧ 0x89 = crc8 [0x3B, 0xBE]
    ∧ (start false [.ok] [.bytes bs]).cfgEnforce ≠ true := by decide
theorem witness_OneWordQueriesComplete :
    (Instr.getAltitude, (0x2322 : Word), 1, HostValue.number ⟨500, 0⟩) ∈ oneWordQueries (des16 0x01 0xF4)
    ∧ (start true [.ok] [.bytes [0x01, 0xF4, 0x33]]).busy = false
    ∧ (start true [.ok] [.bytes [0x01, 0xF4, 0x33]]).writeAnswers = .ok :: []
    ∧ (start true [.ok] [.bytes [0x01, 0xF4, 0x33]]).readAnswers = .bytes [0x01, 0xF4, 0x33] :: []
    ∧ 0x33 = crc8 [0x01, 0xF4] ∧ (start false [.ok] []).cfgEnforce ≠ true := by decide
theorem witness_OffsetRoundTripWithinQuantum : encodeOffset false ⟨4, 0⟩ = some 0x05DA
    ∧ encodeOffset true ⟨100000000, 74898285713⟩ = some 1 ∧ encodeOffset false ⟨100000000, 74898285713⟩ = some 0 := by
  decide
theorem witness_SoftResetEmitsNothing : let s := { start true [] [] with host := [.softReset] }
    s.ph = .idle ∧ s.host = .softReset :: [] := by decide
theorem witness_ModeFlagWrites : (start true [] []).ph = .idle
    ∧ { start true [] [] with host := [.setLowPower true] }.host = .setLowPower true :: []
    ∧ { start true [] [] with host := [.setSingleShot true] }.host = .setSingleShot true :: [] := by decide
theorem witness_HostResetLatchesConfiguration : let s := { start true [] [] with host := [.reset 0x29 false] }
    s.ph = .idle ∧ s.host = .reset 0x29 false :: [] ∧ s.busy = false ∧ { s with busy := true }.busy = true := by decide
/-- Its clause on an operation in progress, whose state a run reaches. -/
theorem witness_HostResetLatchesConfiguration_busy :
    let s := { inPhase .s6 3 [] [.short] with host := [.reset 0x29 false] }
    s.ph ≠ .idle ∧ s.busy = true ∧ s.host = .reset 0x29 false :: [] ∧ ∃ t, step s = .next t :=
  ⟨by decide, by decide, by decide, _, rfl⟩
theorem witness_OnlyResetChangesConfiguration :
    ∃ t, step { start true [] [] with host := [.reset 0x29 true] } = .next t ∧ t.cfgAddr ≠ (start true [] []).cfgAddr :=
  ⟨_, rfl, by decide⟩
theorem witness_StepRunsDecodedRequest : (start true [] []).ph = .idle ∧ (start true [] []).host = []
    ∧ decodeRecord [0x36, 0x46] = .ok .reinit ∧ decodeRecord [] = .error .emptyRecord := by decide
theorem witness_FetchWordRunsNext : decodeTableWord 16 0x3646 = some .reinit ∧ decodeTableWord 8 0x3 = some (.exec 0 [] 0 0) := by
  decide
theorem witness_EncodeOfDecode : decode [0x3F, 0x86, 0xF4, 0x03, 0x55] = .ok (.periodicMeasurementStop 500, [0x55]) := by
  decide

/-- A block in S6 of get_altitude, its frame written and its wait done. -/
def reading : State :=
  { inPhase .s6 3 [] [.bytes [0x01, 0xF4, 0x33]] with ev := [.write 0x62 [0x23, 0x22] .ok, .wait 1] }

theorem witness_StepKeepsInvariant : reading.Inv ∧ ∃ t, step reading = .next t ∧ t.ph = .s7 := by
  refine ⟨?_, _, rfl, rfl⟩
  constructor <;> simp [reading, inPhase, start, State.resetWith, txInPhase, rxInPhase, traceInPhase]
  decide

end Sys2Proof.Tests
end

section
/-! Proofs of the statements of 00_scope.md: the machine's steps against the moves of `PH` and against the request a
record decodes to. -/

namespace Sys2Proof.Machine

/-! ### What serving a record is -/

theorem serve_request (record : List Byte) (s : State) : serve (.request record) s = serveRecord record s := rfl

theorem serveRecord_of_decoded {record : List Byte} {i : Instr} (h : decodeRecord record = .ok i) (s : State) :
    serveRecord record s = exec i s := by
  simp [serveRecord, h]

theorem serveRecord_of_malformed {record : List Byte} {e : DecodeError} (h : decodeRecord record = .error e)
    (s : State) : serveRecord record s = .refused (.malformedRecord e) := by
  simp [serveRecord, h]

/-- An idle block whose host presents a record serves that record, the act consumed. -/
theorem step_idle_request {s : State} {record : List Byte} {hs : List HostAction} (hp : s.ph = .idle)
    (hh : s.host = .request record :: hs) : step s = serveRecord record { s with host := hs } :=
  (step_idle_serves hp hh).trans (serve_request record _)

/-! ### Steps with no host act waiting are moves of `PH` -/

/-- Without a waiting host act a step is a move of `PH`, in every phase: an idle block waits under both. -/
theorem step_eq_phaseStep {s : State} (hh : s.host = []) : step s = phaseStep s := by
  by_cases hp : s.ph = .idle
  · rw [step_idle_waiting hp hh, phaseStep_idle hp]
  · exact step_in_operation hp

theorem phaseStep_host {s t : State} (h : phaseStep s = .next t) : t.host = s.host := by
  obtain ⟨-, -, -, -, hhost, -, -⟩ := phaseStep_keeps h
  exact hhost

theorem run_succ_refused {s : State} {r : Refusal} (h : step s = .refused r) (n : Nat) :
    Host.Core.run Sys2Proof.core (n + 1) s = .refused r := by
  have h' : Sys2Proof.core.step s = .refused r := h
  simp [Host.Core.run, h']

/-- Without a waiting host act `n` steps of the machine are `n` moves of `PH`. -/
theorem run_eq_runPhases (n : Nat) {s : State} (hh : s.host = []) :
    Host.Core.run Sys2Proof.core n s = runPhases n s := by
  induction n generalizing s with
  | zero => rfl
  | succ n ih =>
    have hstep := step_eq_phaseStep hh
    cases hmove : phaseStep s with
    | next t =>
      rw [run_succ_next (hstep.trans hmove), runPhases_succ_next hmove]
      exact ih ((phaseStep_host hmove).trans hh)
    | fault r => exact r.casesOn
    | refused r => exact (run_succ_refused (hstep.trans hmove) n).trans (runPhases_succ_refused hmove).symm

/-- EXEC presents its descriptor with no recipe waiting (43_execute.md R190). -/
theorem exec_exec (d : Desc) (s : State) : exec (.exec d.op d.pay d.wait d.rlen) s = presentExec none d s := rfl

/-! ### The statements -/

/-- Settles O28: with no host act waiting the eight steps are the eight moves of `PH` that EXEC makes. -/
theorem phasesComposeToExec : Obligations.PhasesComposeToExec := by
  intro d s hbusy hrlen hhost
  have hsteps : Host.Core.run Sys2Proof.core 8 (acceptExec none d s) = runPhases 8 (acceptExec none d s) :=
    run_eq_runPhases 8 hhost
  have hexec : exec (.exec d.op d.pay d.wait d.rlen) s = runPhases 8 (acceptExec none d s) :=
    (exec_exec d s).trans (presentExec_ready hbusy hrlen)
  exact hsteps.trans hexec.symm

/-- Settles O54: an idle block waits or serves the record, and serving follows what the record decodes to. -/
theorem stepRunsDecodedRequest : Obligations.StepRunsDecodedRequest := by
  intro s hidle
  refine ⟨step_idle_waiting hidle, fun record hs hhost => ⟨fun i hdec => ?_, fun e hdec => ?_⟩⟩
  · exact (step_idle_request hidle hhost).trans (serveRecord_of_decoded hdec _)
  · exact (step_idle_request hidle hhost).trans (serveRecord_of_malformed hdec _)

end Sys2Proof.Machine
end

section
/-! Proofs of the statements of 10_state.md: the values after reset, the host's writes of the mode flags, what an
operation leaves alone, what it cannot see of the operations before it, and the invariant of every step. -/

namespace Sys2Proof.Machine

/-! ### The three operations without transport and timer, when the block is ready -/

theorem execCsum_ready {s : State} (hb : s.busy = false) (bs : List Byte) :
    execCsum bs s = .next (deliver (.ok (.byte (crc8 bs))) (runChecksum bs (accept s))) := by
  simp [execCsum, hb]

/-- FRAME delivers the frame it has built in `TX`; `ACC` is scratch. -/
theorem execFrame_ready {s : State} (hb : s.busy = false) (op : Word) (pay : List Word) :
    ∃ acc, execFrame op pay s
      = .next (deliver (.ok (.bytes (frame op pay))) { accept s with tx := frame op pay, acc := acc }) := by
  obtain ⟨acc, hloop⟩ := appendWords_spec pay ((accept s).setTx (ser16 op))
  exact ⟨acc, by simp only [execFrame, hb, hloop]; rfl⟩

/-- What VALID delivers for a buffer (42_validate.md R164). -/
def validResult (buf : List Byte) : Result :=
  match validate buf with
  | .valid => .ok (.words (words buf))
  | .mismatch rcvs calcs => .err (.checksumMismatch rcvs calcs)

theorem execValid_ready {s : State} {buf : List Byte} (hb : s.busy = false) (hm : buf.length % 3 = 0) :
    execValid buf s = .next (deliver (validResult buf) (runValidation ((accept s).setRx buf))) := by
  simp only [execValid, hb, hm, validResult, runValidation_rx, State.setRx_rx, Bool.false_eq_true, if_true, if_false]
  cases validate buf <;> rfl

theorem execValid_not_blocks {s : State} {buf : List Byte} (hb : s.busy = false) (hm : buf.length % 3 ≠ 0) :
    execValid buf s = .refused .bufferLengthNotMultipleOf3 := by
  simp [execValid, hb, hm]

/-! ### What serving the host can do -/

theorem serveReset_next {a : BusAddr} {e : Bool} {s t : State} (h : serveReset a e s = .next t) :
    t = { State.resetWith a e with
      host := s.host, writeAnswers := s.writeAnswers, readAnswers := s.readAnswers, wire := s.wire
      freeIx := s.freeIx } := by
  unfold serveReset at h
  split at h <;> cases h
  rfl

theorem serveRecord_next {record : List Byte} {s t : State} (h : serveRecord record s = .next t) :
    ∃ i, exec i s = .next t := by
  cases hd : decodeRecord record with
  | ok i => exact ⟨i, (serveRecord_of_decoded hd s).symm.trans h⟩
  | error e => rw [serveRecord_of_malformed hd] at h; cases h

/-- periodic_measurement(start=true) is one of the two start operations. -/
theorem callStartPeriodic_eq_exec (s : State) : ∃ i, callStartPeriodic s = exec i s := by
  unfold callStartPeriodic
  split
  · exact ⟨.periodicMeasurementStartLowPower, rfl⟩
  · exact ⟨.periodicMeasurementStartNormal, rfl⟩

/-- What serving one act can do: run an operation, return from soft_reset, write a mode flag, or reset. -/
theorem serve_next {a : HostAction} {s t : State} (h : serve a s = .next t) :
    (∃ i, exec i s = .next t)
    ∨ t = callSoftReset s
    ∨ (∃ low single, t = { s with modeLowPower := low, modeSingleShot := single })
    ∨ ∃ addr enforce, a = .reset addr enforce ∧ serveReset addr enforce s = .next t := by
  cases a with
  | request record => exact .inl (serveRecord_next h)
  | startPeriodic =>
    obtain ⟨i, hi⟩ := callStartPeriodic_eq_exec s
    exact .inl ⟨i, hi.symm.trans h⟩
  | softReset => cases h; exact .inr (.inl rfl)
  | setLowPower b => cases h; exact .inr (.inr (.inl ⟨b, _, rfl⟩))
  | setSingleShot b => cases h; exact .inr (.inr (.inl ⟨_, b, rfl⟩))
  | reset addr enforce => exact .inr (.inr (.inr ⟨addr, enforce, rfl, h⟩))

/-- What a step can do: make a move of `PH`, wait, or serve the host's next act. -/
theorem step_next {s t : State} (h : step s = .next t) :
    (s.ph ≠ .idle ∧ phaseStep s = .next t)
    ∨ (s.ph = .idle ∧ s.host = [] ∧ t = s)
    ∨ ∃ a rest, s.ph = .idle ∧ s.host = a :: rest ∧ serve a { s with host := rest } = .next t := by
  by_cases hp : s.ph = .idle
  · cases hh : s.host with
    | nil => rw [step_idle_waiting hp hh] at h; cases h; exact .inr (.inl ⟨hp, rfl, rfl⟩)
    | cons a rest => exact .inr (.inr ⟨a, rest, hp, rfl, (step_idle_serves hp hh).symm.trans h⟩)
  · exact .inl ⟨hp, (step_in_operation hp).symm.trans h⟩

/-! ### The configuration -/

open Sys2Proof.Claims (sameConfiguration)

theorem exec_keeps_configuration {i : Instr} {s t : State} (h : exec i s = .next t) :
    sameConfiguration s t ∧ t.host = s.host ∧ ((∀ q, i ≠ .setTemperatureOffset q) → t.freeIx = s.freeIx) := by
  obtain ⟨-, -, r, tx, rx, rcvs, calcs, acc, rfl⟩ | ⟨dec, d, s', hrun, hs', -⟩ := exec_next i s t h
  · exact ⟨⟨rfl, rfl, rfl, rfl⟩, rfl, fun _ => rfl⟩
  · obtain ⟨haddr, henf, hlow, hsingle, hhost, hix⟩ := presentExec_keeps hrun
    obtain rfl | ⟨⟨q, hq⟩, rfl⟩ := hs'
    · exact ⟨⟨haddr, henf, hlow, hsingle⟩, hhost, fun _ => hix⟩
    · exact ⟨⟨haddr, henf, hlow, hsingle⟩, hhost, fun hne => absurd hq (hne q)⟩

/-- Settles O32: the configuration law of one operation. -/
theorem operationsKeepConfiguration : Obligations.OperationsKeepConfiguration :=
  fun _ _ _ h => exec_keeps_configuration h

/-- An act of the host that changes the configuration is a reset with the new values. -/
theorem serve_configuration {a : HostAction} {s t : State} (h : serve a s = .next t) :
    (t.cfgAddr = s.cfgAddr ∧ t.cfgEnforce = s.cfgEnforce) ∨ a = .reset t.cfgAddr t.cfgEnforce := by
  obtain ⟨i, h⟩ | rfl | ⟨low, single, rfl⟩ | ⟨addr, enforce, rfl, h⟩ := serve_next h
  · obtain ⟨⟨haddr, henf, -, -⟩, -, -⟩ := exec_keeps_configuration h
    exact .inl ⟨haddr, henf⟩
  · exact .inl ⟨rfl, rfl⟩
  · exact .inl ⟨rfl, rfl⟩
  · obtain rfl := serveReset_next h
    exact .inr rfl

/-- Settles O53: a move of `PH` and a wait keep the configuration, and of the host's acts all but a reset do. -/
theorem onlyResetChangesConfiguration : Obligations.OnlyResetChangesConfiguration := by
  intro s t h hchanged
  obtain ⟨-, hmove⟩ | ⟨-, -, rfl⟩ | ⟨a, rest, hidle, hhost, hserve⟩ := step_next h
  · obtain ⟨haddr, henf, -⟩ := phaseStep_keeps hmove
    simp [haddr, henf] at hchanged
  · simp at hchanged
  · obtain ⟨haddr, henf⟩ | rfl := serve_configuration hserve
    · simp [haddr, henf] at hchanged
    · exact ⟨hidle, _, _, rest, hhost, rfl, rfl⟩

/-! ### The scratch elements -/

/-- `s` with the scratch elements, the pending result and the host values that stand in `u`. -/
def withScratchOf (u s : State) : State :=
  { s with desc := u.desc, tx := u.tx, rx := u.rx, rcvs := u.rcvs, calcs := u.calcs, acc := u.acc, res := u.res
           ret := u.ret, decoder := u.decoder }

@[simp] theorem withScratchOf_busy (u s : State) : (withScratchOf u s).busy = s.busy := rfl

/-- What the host and the environment can observe is the same in both states. -/
def SameObservables (t t' : State) : Prop :=
  t'.res = t.res ∧ t'.ret = t.ret ∧ t'.ev = t.ev ∧ t'.wire = t.wire ∧ t'.ph = t.ph ∧ t'.busy = t.busy
  ∧ t'.writeAnswers = t.writeAnswers ∧ t'.readAnswers = t.readAnswers

/-- The second outcome is the same refusal as the first, or a next state with the same observables. -/
def SameOutcome (o o' : Host.Outcome State Fault Refusal) : Prop :=
  (∀ r, o = .refused r → o' = .refused r) ∧ ∀ t, o = .next t → ∃ t', o' = .next t' ∧ SameObservables t t'

theorem SameOutcome.refused (r : Refusal) : SameOutcome (.refused r) (.refused r) :=
  ⟨fun _ h => h, fun _ h => by cases h⟩

theorem SameOutcome.next {t t' : State} (h : SameObservables t t') : SameOutcome (.next t) (.next t') :=
  ⟨fun _ h => (by cases h), fun _ ht => by cases ht; exact ⟨t', rfl, h⟩⟩

/-- Two deliveries of the same result look the same when nothing but scratch differs before them. -/
theorem sameObservables_deliver (r : Result) {s s' : State} (hd : s'.decoder = s.decoder) (hev : s'.ev = s.ev)
    (hwire : s'.wire = s.wire) (hw : s'.writeAnswers = s.writeAnswers) (hr : s'.readAnswers = s.readAnswers) :
    SameObservables (deliver r s) (deliver r s') :=
  ⟨rfl, by simp [hd], hev, hwire, rfl, rfl, hw, hr⟩

/-- An operation that refuses a busy block and otherwise does not see the scratch elements. -/
theorem sameOutcome_unless_busy {f : State → Host.Outcome State Fault Refusal} (u s : State)
    (hbusy : ∀ s, s.busy = true → f s = .refused .busy)
    (hready : s.busy = false → SameOutcome (f s) (f (withScratchOf u s))) :
    SameOutcome (f s) (f (withScratchOf u s)) := by
  cases hb : s.busy with
  | false => exact hready hb
  | true =>
    rw [hbusy s hb, hbusy (withScratchOf u s) hb]
    exact .refused _

section Scratch

variable (u s : State)

theorem execCsum_withScratchOf (bs : List Byte) :
    SameOutcome (execCsum bs s) (execCsum bs (withScratchOf u s)) := by
  refine sameOutcome_unless_busy u s (fun s hb => by simp [execCsum, hb]) fun hb => ?_
  rw [execCsum_ready hb, execCsum_ready (s := withScratchOf u s) hb]
  exact .next (sameObservables_deliver _ rfl rfl rfl rfl rfl)

theorem execFrame_withScratchOf (op : Word) (pay : List Word) :
    SameOutcome (execFrame op pay s) (execFrame op pay (withScratchOf u s)) := by
  refine sameOutcome_unless_busy u s (fun s hb => by simp [execFrame, hb]) fun hb => ?_
  obtain ⟨acc, h⟩ := execFrame_ready hb op pay
  obtain ⟨acc', h'⟩ := execFrame_ready (s := withScratchOf u s) hb op pay
  rw [h, h']
  exact .next (sameObservables_deliver _ rfl rfl rfl rfl rfl)

theorem execValid_withScratchOf (buf : List Byte) :
    SameOutcome (execValid buf s) (execValid buf (withScratchOf u s)) := by
  refine sameOutcome_unless_busy u s (fun s hb => by simp [execValid, hb]) fun hb => ?_
  by_cases hm : buf.length % 3 = 0
  · rw [execValid_ready hb hm, execValid_ready (s := withScratchOf u s) hb hm]
    exact .next (sameObservables_deliver _ rfl rfl rfl rfl rfl)
  · rw [execValid_not_blocks hb hm, execValid_not_blocks (s := withScratchOf u s) hb hm]
    exact .refused _

/-- At step 3 only `ACC` can differ, since acceptance and the first two steps write every other scratch element. -/
theorem atWrite_withScratchOf (dec : Option Decoder) (d : Desc) (acc : Byte) :
    atWrite dec d acc (withScratchOf u s) = atWrite dec d acc s := rfl

theorem presentExec_withScratchOf (dec : Option Decoder) (d : Desc) :
    SameOutcome (presentExec dec d s) (presentExec dec d (withScratchOf u s)) := by
  refine sameOutcome_unless_busy u s (fun s hb => by simp [presentExec, hb]) fun hb => ?_
  by_cases hm : d.rlen % 3 = 0
  · obtain ⟨acc, h⟩ := presentExec_atWrite dec hb hm
    obtain ⟨acc', h'⟩ := presentExec_atWrite dec (s := withScratchOf u s) hb hm
    rw [h, h', atWrite_withScratchOf]
    obtain ⟨hrefused, hnext⟩ := runPhases_atWrite_acc dec d acc acc' s
    refine ⟨hrefused, fun t ht => ?_⟩
    obtain ⟨c, ht'⟩ := hnext t ht
    exact ⟨_, ht', rfl, rfl, rfl, rfl, rfl, rfl, rfl, rfl⟩
  · simpa [presentExec, hb, hm] using SameOutcome.refused .responseLengthNotMultipleOf3

theorem presentQuery_withScratchOf (op : Word) (wait : Nat) (dec : Decoder) :
    SameOutcome (presentQuery op wait dec s) (presentQuery op wait dec (withScratchOf u s)) :=
  presentExec_withScratchOf u s _ _

theorem presentSet_withScratchOf (op : Word) (p : Option Word) :
    SameOutcome (presentSet op p s) (presentSet op p (withScratchOf u s)) := by
  cases p with
  | some w => exact presentExec_withScratchOf u s _ _
  | none =>
    refine sameOutcome_unless_busy u s (fun s hb => by simp [presentSet, hb]) fun hb => ?_
    simpa [presentSet, hb] using SameOutcome.refused .notAWord

theorem execSetTemperatureOffset_withScratchOf (q : Quantity) :
    SameOutcome (execSetTemperatureOffset q s) (execSetTemperatureOffset q (withScratchOf u s)) := by
  unfold execSetTemperatureOffset
  split
  · exact presentSet_withScratchOf u { s with freeIx := s.freeIx + 1 } _ _
  · exact presentSet_withScratchOf u s _ _

theorem execPeriodicMeasurementStop_withScratchOf (w : Nat) :
    SameOutcome (execPeriodicMeasurementStop w s) (execPeriodicMeasurementStop w (withScratchOf u s)) := by
  refine sameOutcome_unless_busy u s (fun s hb => by simp [execPeriodicMeasurementStop, hb]) fun hb => ?_
  by_cases hw : w ≤ 500
  · simpa [execPeriodicMeasurementStop, hb, hw] using presentQuery_withScratchOf u s opStop w .nothing
  · simpa [execPeriodicMeasurementStop, hb, hw] using SameOutcome.refused .stopWaitOutOfRange

theorem exec_withScratchOf (i : Instr) : SameOutcome (exec i s) (exec i (withScratchOf u s)) := by
  cases i with
  | csum bs => exact execCsum_withScratchOf u s bs
  | frame op pay => exact execFrame_withScratchOf u s op pay
  | valid buf => exact execValid_withScratchOf u s buf
  | setTemperatureOffset q => exact execSetTemperatureOffset_withScratchOf u s q
  | setAltitude q => exact presentSet_withScratchOf u s _ _
  | setAmbientPressure q => exact presentSet_withScratchOf u s _ _
  | periodicMeasurementStop w => exact execPeriodicMeasurementStop_withScratchOf u s w
  | exec op pay wait rlen => exact presentExec_withScratchOf u s _ _
  | saveConfig | getId | execSelfTest | reinit | getTemperatureOffset | getAltitude
  | periodicMeasurementStartLowPower | periodicMeasurementStartNormal | isDataReady =>
    exact presentQuery_withScratchOf u s _ _ _

end Scratch

/-- Settles O35: acceptance overwrites the scratch elements before anything reads them, and `ACC` reaches no
observable. -/
theorem resultIndependentOfScratch : Obligations.ResultIndependentOfScratch := by
  intro i s desc tx rx rcvs calcs acc res ret dec
  exact exec_withScratchOf { s with desc := desc, tx := tx, rx := rx, rcvs := rcvs, calcs := calcs, acc := acc
                                    res := res, ret := ret, decoder := dec } s i

/-! ### The mode flags and the values after reset -/

/-- Settles O50: serving either act writes its flag. -/
theorem modeFlagWrites : Obligations.ModeFlagWrites :=
  fun _ _ _ hidle => ⟨fun hhost => step_idle_serves hidle hhost, fun hhost => step_idle_serves hidle hhost⟩

/-- Settles O51: the values `State.resetWith` gives. -/
theorem resetValues : Obligations.ResetValues :=
  ⟨rfl, fun _ _ => ⟨rfl, rfl, rfl, rfl, rfl, rfl, rfl, rfl, rfl, rfl⟩⟩

/-! ### The invariant -/

section Invariant

variable {s t : State}

theorem State.Inv.idle_of_not_busy (hi : s.Inv) (hb : s.busy = false) : s.ph = .idle := by
  by_contra hp
  simp [hi.busy_iff.mpr hp] at hb

theorem State.Inv.trace_of_idle (hi : s.Inv) (hp : s.ph = .idle) : traceEnd s.cfgAddr s.ev ≠ none := by
  simpa [hp, traceInPhase] using hi.trace

/-- The invariant does not speak of the mode flags, of the host's and the transport's side, or of the free values. -/
theorem State.Inv.withEnvironment (hi : s.Inv) (low single : Bool) (host : List HostAction) (ws : List WriteAnswer)
    (rs : List ReadOutcome) (wire : List (BusAddr × List Byte)) (ix : Nat) :
    State.Inv { s with modeLowPower := low, modeSingleShot := single, host := host, writeAnswers := ws
                       readAnswers := rs, wire := wire, freeIx := ix } :=
  { hi with }

theorem resetWith_inv (a : BusAddr) (e : Bool) : (State.resetWith a e).Inv := by
  constructor <;> simp [State.resetWith, rxInPhase, traceInPhase, traceEnd, traceFrom]

/-- A delivery leaves the invariant, when the lists and the trace are as it wants them between operations. -/
theorem deliver_inv (r : Result) (hlists : s.rcvs.length = s.calcs.length)
    (htrace : traceEnd s.cfgAddr s.ev ≠ none) : (deliver r s).Inv := by
  constructor <;> simp [deliver, rxInPhase, traceInPhase, hlists, htrace]

theorem execCsum_keeps_inv {bs : List Byte} (hi : s.Inv) (hb : s.busy = false) (h : execCsum bs s = .next t) :
    t.Inv := by
  rw [execCsum_ready hb] at h
  cases h
  exact deliver_inv _ rfl (hi.trace_of_idle (hi.idle_of_not_busy hb))

theorem execFrame_keeps_inv {op : Word} {pay : List Word} (hi : s.Inv) (hb : s.busy = false)
    (h : execFrame op pay s = .next t) : t.Inv := by
  obtain ⟨acc, heq⟩ := execFrame_ready hb op pay
  rw [heq] at h
  cases h
  exact deliver_inv _ rfl (hi.trace_of_idle (hi.idle_of_not_busy hb))

theorem execValid_keeps_inv {buf : List Byte} (hi : s.Inv) (hb : s.busy = false) (h : execValid buf s = .next t) :
    t.Inv := by
  by_cases hm : buf.length % 3 = 0
  · rw [execValid_ready hb hm] at h
    cases h
    exact deliver_inv _ (rcvOf_length_eq_calcOf_length buf) (hi.trace_of_idle (hi.idle_of_not_busy hb))
  · rw [execValid_not_blocks hb hm] at h
    cases h

theorem exec_not_busy {i : Instr} (h : exec i s = .next t) : s.busy = false := by
  obtain ⟨-, hb, -⟩ | ⟨dec, d, s', hrun, rfl | ⟨-, rfl⟩, -⟩ := exec_next i s t h
  · exact hb
  · exact (presentExec_next hrun).1
  · exact (presentExec_next hrun).1

/-- A catalogue call keeps the invariant: it presents one EXEC, its recipe asking for the descriptor's length. -/
theorem catalog_keeps_inv {i : Instr} (hc : isCatalog i = true) (hi : s.Inv) (h : exec i s = .next t) : t.Inv := by
  obtain ⟨hpure, -⟩ | ⟨dec, d, s', hrun, hs', ⟨hblock, -⟩ | ⟨-, x, rfl, hlen⟩⟩ := exec_next i s t h
  · simp [hc] at hpure
  · simp [hc] at hblock
  · have hi' : s'.Inv := by
      obtain rfl | ⟨-, rfl⟩ := hs'
      · exact hi
      · exact hi.withEnvironment _ _ _ _ _ _ _
    exact presentExec_keeps_inv _ d s' t hi' (fun y hy => by cases hy; exact hlen) hrun

theorem exec_keeps_inv {i : Instr} (hi : s.Inv) (h : exec i s = .next t) : t.Inv := by
  have hb := exec_not_busy h
  cases i with
  | csum bs => exact execCsum_keeps_inv hi hb h
  | frame op pay => exact execFrame_keeps_inv hi hb h
  | valid buf => exact execValid_keeps_inv hi hb h
  | exec op pay wait rlen => exact presentExec_keeps_inv none _ s t hi (fun _ hx => by cases hx) h
  | _ => exact catalog_keeps_inv rfl hi h

theorem callSoftReset_keeps_inv (hi : s.Inv) (hp : s.ph = .idle) : (callSoftReset s).Inv :=
  { hi with no_result := fun hne => absurd hp hne }

/-- Whatever act an idle block serves, the invariant stays. -/
theorem serve_keeps_inv {a : HostAction} (hi : s.Inv) (hp : s.ph = .idle) (h : serve a s = .next t) : t.Inv := by
  obtain ⟨i, h⟩ | rfl | ⟨low, single, rfl⟩ | ⟨addr, enforce, -, h⟩ := serve_next h
  · exact exec_keeps_inv hi h
  · exact callSoftReset_keeps_inv hi hp
  · exact hi.withEnvironment _ _ _ _ _ _ _
  · obtain rfl := serveReset_next h
    exact (resetWith_inv addr enforce).withEnvironment _ _ _ _ _ _ _

end Invariant

/-- Settles O59: the machine of `State.reset` is one of those right after a reset. -/
theorem invariantAtReset : Obligations.InvariantAtReset := ⟨resetWith_inv _ _, resetWith_inv⟩

/-- Settles O60: a step is a move of `PH`, a wait, or the serving of one act, and each keeps the invariant. -/
theorem stepKeepsInvariant : Obligations.StepKeepsInvariant := by
  intro s t hi h
  obtain ⟨-, hmove⟩ | ⟨-, -, rfl⟩ | ⟨a, rest, hidle, -, hserve⟩ := step_next h
  · exact phaseStep_keeps_inv s t hi hmove
  · exact hi
  · exact serve_keeps_inv (hi.withEnvironment _ _ rest _ _ _ _) hidle hserve

end Sys2Proof.Machine
end

section
/-! Proofs of the statements of 20_memory.md: the accesses of one and two bytes to the buffers, and the transport call
that does not return. -/

namespace Sys2Proof.Machine

/-! ### Accesses to the buffers (R53) -/

theorem memRead_one_of_byte {s : State} {a : Nat} {b0 : Byte} (h0 : s.rx[a]? = some b0) :
    s.memRead a 1 = some b0.toNat := by
  simp [State.memRead, memReadByte, h0]

theorem memRead_two_of_bytes {s : State} {a : Nat} {b0 b1 : Byte} (h0 : s.rx[a]? = some b0)
    (h1 : s.rx[a + 1]? = some b1) : s.memRead a 2 = some (b0.toNat * 256 + b1.toNat) := by
  simp [State.memRead, memReadWord_of_bytes h0 h1, des16_toNat]

/-- Everything a two-byte write within reach of the buffer does: the second byte is within reach of the buffer the first
one leaves, and writes beside it. -/
theorem memWriteWord_spec {buf : List Byte} {a : Nat} (v : Word) (h : a ≤ buf.length) :
    ∃ out, memWriteWord buf a v = some out ∧ out[a]? = some (v.extractLsb' 8 8)
      ∧ out[a + 1]? = some (v.extractLsb' 0 8) ∧ ∀ j, j ≠ a → j ≠ a + 1 → out[j]? = buf[j]? := by
  obtain ⟨mid, hmid, hhigh, hkeep, hreach⟩ := memWriteByte_spec (v.extractLsb' 8 8) h
  obtain ⟨out, hout, hlow, hkeep', -⟩ := memWriteByte_spec (v.extractLsb' 0 8) hreach
  refine ⟨out, by simp [memWriteWord, hmid, hout], ?_, hlow, fun j hj hj' => ?_⟩
  · exact (hkeep' a (by omega)).trans hhigh
  · exact (hkeep' j hj').trans (hkeep j hj)

theorem memWrite_one_spec {s : State} {a : Nat} (v : Word) (h : a ≤ s.tx.length) :
    ∃ tx, s.memWrite a 1 v = some { s with tx := tx } ∧ tx[a]? = some (v.extractLsb' 0 8)
      ∧ ∀ j, j ≠ a → tx[j]? = s.tx[j]? := by
  obtain ⟨tx, hwrite, hbyte, hkeep, -⟩ := memWriteByte_spec (v.extractLsb' 0 8) h
  exact ⟨tx, by simp [State.memWrite, hwrite], hbyte, hkeep⟩

theorem memWrite_two_spec {s : State} {a : Nat} (v : Word) (h : a ≤ s.tx.length) :
    ∃ tx, s.memWrite a 2 v = some { s with tx := tx } ∧ tx[a]? = some (v.extractLsb' 8 8)
      ∧ tx[a + 1]? = some (v.extractLsb' 0 8) ∧ ∀ j, j ≠ a → j ≠ a + 1 → tx[j]? = s.tx[j]? := by
  obtain ⟨tx, hwrite, hbytes⟩ := memWriteWord_spec v h
  exact ⟨tx, by simp [State.memWrite, hwrite], hbytes⟩

/-- A word appended below a bit vector: its bits do not meet those above it, so the value is a sum. -/
theorem toNat_append_word {n : Nat} (x : BitVec n) (w : Word) : (x ++ w).toNat = x.toNat * 2 ^ 16 + w.toNat := by
  rw [BitVec.toNat_append, ← Nat.shiftLeft_add_eq_or_of_lt w.isLt, Nat.shiftLeft_eq]

theorem serial48_toNat (w0 w1 w2 : Word) :
    (serial48 w0 w1 w2).toNat = w0.toNat * 2 ^ 32 + w1.toNat * 2 ^ 16 + w2.toNat := by
  calc (serial48 w0 w1 w2).toNat
      = (w0 ++ w1).toNat * 2 ^ 16 + w2.toNat := toNat_append_word (w0 ++ w1) w2
    _ = (w0.toNat * 2 ^ 16 + w1.toNat) * 2 ^ 16 + w2.toNat := by rw [toNat_append_word]
    _ = w0.toNat * 2 ^ 32 + w1.toNat * 2 ^ 16 + w2.toNat := by ring

/-- Settles O12: reads and writes on the state are those on `RX` and `TX`, and the serial number is two appends. -/
theorem bufferAccesses : Obligations.BufferAccesses :=
  ⟨fun _ _ _ h0 => ⟨memRead_one_of_byte h0, fun _ h1 => memRead_two_of_bytes h0 h1⟩,
    fun _ _ v h => ⟨memWrite_one_spec v h, memWrite_two_spec v h⟩, serial48_toNat⟩

/-! ### A transport call that does not return (R64) -/

/-- A step in S3 without an answer to the write leaves the state as it is. -/
theorem step_unanswered_write {s : State} (hp : s.ph = .s3) (hw : s.writeAnswers = []) : step s = .next s := by
  rw [step_in_operation (by simp [hp]), phaseStep_s3 hp]
  simp [stepS3, hw]

/-- A step in S6 without an answer to the read leaves the state as it is. -/
theorem step_unanswered_read {s : State} (hp : s.ph = .s6) (hr : s.readAnswers = []) : step s = .next s := by
  rw [step_in_operation (by simp [hp]), phaseStep_s6 hp]
  simp [stepS6, hr]

section Hung

variable {d : Desc} {s : State} (dec : Option Decoder)

theorem presentExec_unanswered_write (hb : s.busy = false) (hm : d.rlen % 3 = 0) (hw : s.writeAnswers = []) :
    ∃ acc, presentExec dec d s = .next (atWrite dec d acc s) := by
  obtain ⟨acc, hexec⟩ := presentExec_atWrite dec hb hm
  exact ⟨acc, hexec.trans (runPhases_s3_hangs (s := atWrite dec d acc s) rfl hw 6)⟩

theorem presentExec_unanswered_read {ws : List WriteAnswer} (hb : s.busy = false) (hm : d.rlen % 3 = 0)
    (hl : d.rlen ≠ 0) (hw : s.writeAnswers = .ok :: ws) (hr : s.readAnswers = []) :
    ∃ acc, presentExec dec d s = .next (atRead dec d acc ws s) := by
  obtain ⟨acc, hexec⟩ := presentExec_atWrite dec hb hm
  have hwritten := runPhases_atWrite_to_atRead dec acc hw hl
  exact ⟨acc, (hexec.trans hwritten).trans (runPhases_s6_hangs (s := atRead dec d acc ws s) rfl hr 3)⟩

end Hung

/-- Settles O27: the operation stops at the call without an answer, and a step from there changes nothing. -/
theorem hungCallStaysForEver : Obligations.HungCallStaysForEver := by
  intro op pay wait rlen s hbusy hrlen
  let d : Desc := ⟨op, pay, wait, rlen⟩
  refine ⟨fun hw => ?_, fun ws hw hr hl => ?_⟩
  · obtain ⟨acc, hexec⟩ := presentExec_unanswered_write (d := d) none hbusy hrlen hw
    exact ⟨acc, atWrite none d acc s, hexec, rfl, run_of_fixed (step_unanswered_write rfl hw)⟩
  · obtain ⟨acc, hexec⟩ := presentExec_unanswered_read (d := d) none hbusy hrlen hl hw hr
    exact ⟨acc, atRead none d acc ws s, hexec, rfl, run_of_fixed (step_unanswered_read rfl hr)⟩

end Sys2Proof.Machine
end

section
/-! Proofs of the statements of 30_encoding.md: the record of a request and the decoder that reads it, the words of the
opcode table, the bytes of the command frame, and the operands that are refused. -/

namespace Sys2Proof

open Machine (opselCsum opselFrame opselValid opselExec opSetTemperatureOffset opSetAltitude opSetAmbientPressure
  opStop ser16)

/-! ### What the decoder reads after an operation code (R87, Table R89) -/

theorem decode_csum (bs : List Byte) : decode (opselCsum :: bs) = (decBytes bs).map fun p => (.csum p.1, p.2) := rfl

theorem decode_frame (bs : List Byte) : decode (opselFrame :: bs) = decFrame bs := rfl

theorem decode_valid (bs : List Byte) : decode (opselValid :: bs) = (decBytes bs).map fun p => (.valid p.1, p.2) := rfl

theorem decode_exec (bs : List Byte) : decode (opselExec :: bs) = decExec bs := rfl

theorem decode_setTemperatureOffset (bs : List Byte) :
    decode (ser16 opSetTemperatureOffset ++ bs) = (decQuantity bs).map fun p => (.setTemperatureOffset p.1, p.2) := rfl

theorem decode_setAltitude (bs : List Byte) :
    decode (ser16 opSetAltitude ++ bs) = (decQuantity bs).map fun p => (.setAltitude p.1, p.2) := rfl

theorem decode_setAmbientPressure (bs : List Byte) :
    decode (ser16 opSetAmbientPressure ++ bs) = (decQuantity bs).map fun p => (.setAmbientPressure p.1, p.2) := rfl

theorem decode_periodicMeasurementStop (bs : List Byte) :
    decode (ser16 opStop ++ bs) = (decNat bs).map fun p => (.periodicMeasurementStop p.1, p.2) := rfl

@[simp] theorem decFrame_encoded (op : Word) (pay : List Word) (rest : List Byte) :
    decFrame (ser16 op ++ (encWords pay ++ rest)) = .ok (.frame op pay, rest) := by
  simp [decFrame]

@[simp] theorem decExec_encoded (op : Word) (pay : List Word) (wait rlen : Nat) (rest : List Byte) :
    decExec (ser16 op ++ (encWords pay ++ (encNat wait ++ (encNat rlen ++ rest))))
      = .ok (.exec op pay wait rlen, rest) := by
  simp [decExec]

/-! ### The round trip: a code decides the row, and each operand's reader reads back what was written -/

/-- Decoding an encoding answers the instruction and the bytes after it. -/
theorem decode_encode (i : Instr) (rest : List Byte) : decode (encode i ++ rest) = .ok (i, rest) := by
  cases i with
  | csum bs => simp [encode, decode_csum, Except.map]
  | frame op pay => simp [encode, decode_frame]
  | valid buf => simp [encode, decode_valid, Except.map]
  | exec op pay wait rlen => simp [encode, decode_exec]
  | setTemperatureOffset q => simp [encode, decode_setTemperatureOffset, Except.map]
  | setAltitude q => simp [encode, decode_setAltitude, Except.map]
  | setAmbientPressure q => simp [encode, decode_setAmbientPressure, Except.map]
  | periodicMeasurementStop w => simp [encode, decode_periodicMeasurementStop, Except.map]
  | saveConfig | getId | execSelfTest | reinit | getTemperatureOffset | getAltitude
  | periodicMeasurementStartLowPower | periodicMeasurementStartNormal | isDataReady => rfl

/-- Settles O57: the code decides the row, and each operand's reader reads back what the encoder wrote. -/
theorem decodeOfEncode : Obligations.DecodeOfEncode := decode_encode

/-! ### The converse: what the decoder accepts, the encoder wrote -/

/-- An operation `c` whose operand is one byte sequence. -/
theorem eq_encBytes_of_map {c : List Byte → Instr} {bs rest : List Byte} {i : Instr}
    (h : (decBytes bs).map (fun p => (c p.1, p.2)) = .ok (i, rest)) : ∃ t, i = c t ∧ bs = encBytes t ++ rest := by
  obtain ⟨⟨t, r⟩, ht, hi⟩ := exists_of_map_ok h
  cases hi
  exact ⟨t, rfl, eq_encBytes_of_decBytes _ _ _ ht⟩

theorem eq_encode_of_decFrame {bs rest : List Byte} {i : Instr} (h : decFrame bs = .ok (i, rest)) :
    opselFrame :: bs = encode i ++ rest := by
  unfold decFrame at h
  split at h
  · next op r1 hop =>
    split at h
    · next pay r2 hpay =>
      cases h
      obtain rfl := eq_ser16_of_decWord _ _ _ hop
      obtain rfl := eq_encWords_of_decWords _ _ _ hpay
      simp [encode]
    · cases h
  · cases h

theorem eq_encode_of_decExec {bs rest : List Byte} {i : Instr} (h : decExec bs = .ok (i, rest)) :
    opselExec :: bs = encode i ++ rest := by
  unfold decExec at h
  split at h
  · next op r1 hop =>
    split at h
    · next pay r2 hpay =>
      split at h
      · next wait r3 hwait =>
        split at h
        · next rlen r4 hrlen =>
          cases h
          obtain rfl := eq_ser16_of_decWord _ _ _ hop
          obtain rfl := eq_encWords_of_decWords _ _ _ hpay
          obtain rfl := eq_encNat_of_decNat _ _ _ hwait
          obtain rfl := eq_encNat_of_decNat _ _ _ hrlen
          simp [encode]
        · cases h
      · cases h
    · cases h
  · cases h

/-- Whatever decodes is the encoding of what it decodes to, then the rest: the first byte is one of the four `OPSEL`
codes, or the first two are an opcode. -/
theorem eq_encode_of_decode {bs rest : List Byte} {i : Instr} (h : decode bs = .ok (i, rest)) :
    bs = encode i ++ rest := by
  cases bs with
  | nil => cases h
  | cons b bs =>
    by_cases hcsum : b = opselCsum
    · subst hcsum
      obtain ⟨t, rfl, rfl⟩ := eq_encBytes_of_map (c := .csum) h
      rfl
    by_cases hframe : b = opselFrame
    · subst hframe
      exact eq_encode_of_decFrame h
    by_cases hvalid : b = opselValid
    · subst hvalid
      obtain ⟨t, rfl, rfl⟩ := eq_encBytes_of_map (c := .valid) h
      rfl
    by_cases hexec : b = opselExec
    · subst hexec
      exact eq_encode_of_decExec h
    simp only [decode, hcsum, hframe, hvalid, hexec, if_false] at h
    cases bs with
    | nil => cases h
    | cons b1 bs => exact eq_encode_of_decCatalog _ _ _ _ _ h

/-- Settles O58: every reader accepts only what its writer wrote, so the decoder has no second record to accept. -/
theorem encodeOfDecode : Obligations.EncodeOfDecode := fun _ _ _ h => eq_encode_of_decode h

theorem decodeRecord_encode (i : Instr) : decodeRecord (encode i) = .ok i := by
  have h := decode_encode i []
  rw [List.append_nil] at h
  simp [decodeRecord, h]

/-! ### The words of the opcode table -/

/-- A table word laid out as the record of `i` and some zeros decodes to `i`. -/
theorem decodeTableWord_of_layout {nbits w : Nat} {i : Instr} (zeros : Nat)
    (h : layTableWord nbits w = encode i ++ List.replicate zeros 0) : decodeTableWord nbits w = some i := by
  simp [decodeTableWord, h, decode_encode]

/-- The record of a table word is the encoding of what the word decodes to: the zeros left over are cut off. -/
theorem tableRecord_eq_encode {nbits w : Nat} {i : Instr} (h : decodeTableWord nbits w = some i) :
    tableRecord nbits w = encode i := by
  unfold decodeTableWord at h
  split at h
  · next rest hdec =>
    cases h
    simp [tableRecord, eq_encode_of_decode hdec, decode_encode]
  · cases h

/-- Settles O56: each word is laid out as the record of its row followed by the zeros its operands do not take. -/
theorem tableWordsDecode : Obligations.TableWordsDecode := by
  refine ⟨?csum, ?frame, ?valid, ?exec, ?saveConfig, ?getId, ?execSelfTest, ?reinit, ?setTemperatureOffset,
    ?getTemperatureOffset, ?setAltitude, ?getAltitude, ?setAmbientPressure, ?startLowPower, ?startNormal, ?stop,
    ?isDataReady⟩
  case csum | valid | stop => exact decodeTableWord_of_layout 7 (by decide)
  case frame | setTemperatureOffset | setAltitude | setAmbientPressure => exact decodeTableWord_of_layout 5 (by decide)
  case exec => exact decodeTableWord_of_layout 3 (by decide)
  case saveConfig | getId | execSelfTest | reinit | getTemperatureOffset | getAltitude | startLowPower | startNormal
    | isDataReady => exact decodeTableWord_of_layout 8 (by decide)

end Sys2Proof

namespace Sys2Proof.Machine

/-- Settles O55: the word's record is the encoding of `i`, so the idle block decodes it back to `i` and runs it. -/
theorem fetchWordRunsNext : Obligations.FetchWordRunsNext := by
  intro s nbits w i h
  have hrecord : decodeRecord (tableRecord nbits w) = .ok i := by
    rw [tableRecord_eq_encode h, decodeRecord_encode]
  calc step (s.withFetchWord nbits w)
      = serveRecord (tableRecord nbits w) { s with ph := .idle, busy := false } := step_idle_request rfl rfl
    _ = exec i { s with ph := .idle, busy := false } := serveRecord_of_decoded hrecord _

/-! ### The bytes of the command frame (R83) -/

/-- The blocks of a payload lie one after the other, three bytes each. -/
theorem getElem?_flatMap_attach {pay : List Word} {j : Nat} {p : Word} (hp : pay[j]? = some p) {k : Nat} (hk : k < 3) :
    (pay.flatMap attach)[3 * j + k]? = (attach p)[k]? := by
  induction pay generalizing j with
  | nil => simp at hp
  | cons w ws ih =>
    rw [List.flatMap_cons]
    cases j with
    | zero =>
      obtain rfl : w = p := by simpa using hp
      rw [Nat.mul_zero, Nat.zero_add, List.getElem?_append_left (by simpa using hk)]
    | succ j =>
      rw [List.getElem?_append_right (by simp; omega), attach_length, show 3 * (j + 1) + k - 3 = 3 * j + k by omega]
      exact ih (by simpa using hp)

/-- After the two bytes of the opcode stands the payload. -/
theorem getElem?_frame_payload (op : Word) {pay : List Word} {j : Nat} {p : Word} (hp : pay[j]? = some p) {k : Nat}
    (hk : k < 3) : (frame op pay)[2 + k + 3 * j]? = (attach p)[k]? := by
  rw [frame, List.getElem?_append_right (by simp; omega), ser16_length, show 2 + k + 3 * j - 2 = 3 * j + k by omega]
  exact getElem?_flatMap_attach hp hk

/-- Settles O10: the opcode's two bytes, then byte `k` of the block of word `j` at `2 + k + 3 * j`. -/
theorem frameLayout : Obligations.FrameLayout := fun op pay =>
  ⟨frame_length op pay, rfl, rfl, fun _ _ hp =>
    ⟨getElem?_frame_payload op hp (k := 0) (by decide), getElem?_frame_payload op hp (k := 1) (by decide),
      getElem?_frame_payload op hp (k := 2) (by decide)⟩⟩

/-! ### Operands that are refused (R93, Table R9) -/

theorem presentExec_not_blocks {dec : Option Decoder} {d : Desc} {s : State} (hb : s.busy = false)
    (hm : d.rlen % 3 ≠ 0) : presentExec dec d s = .refused .responseLengthNotMultipleOf3 := by
  simp [presentExec, hb, hm]

theorem execPeriodicMeasurementStop_out_of_range {w : Nat} {s : State} (hb : s.busy = false) (hw : 500 < w) :
    execPeriodicMeasurementStop w s = .refused .stopWaitOutOfRange := by
  simp [execPeriodicMeasurementStop, hb, hw]

/-- Settles O31: a block that is not busy looks at the operand next. -/
theorem badOperandsRefused : Obligations.BadOperandsRefused :=
  ⟨fun _ _ _ _ _ hb hm => presentExec_not_blocks hb hm,
    fun _ _ hb hw => execPeriodicMeasurementStop_out_of_range hb hw⟩

end Sys2Proof.Machine
end

section
/-! Proofs of the statements of 40_checksum.md: the forms of the bit step and of the byte step, the checksum of a
sequence, the operation CSUM, and what errors in a word block the checksum detects. -/

namespace Sys2Proof.Machine

open Claims (weight flipBits isBurst)

/-! ### The bit step and the shift round (R114, R115) -/

/-- The bit step shifts, and its feedback bit decides whether the generator is added. -/
theorem crc8Bit_eq_xor (a : Byte) (d : Bool) : crc8Bit a d = a <<< 1 ^^^ if xor a[7] d then crcPoly else 0 := by
  simp only [crc8Bit, BitVec.msb_eq_getLsbD_last]
  split <;> simp_all

/-- Settles O2: the feedback bit is 0 or 1, and the generator has bits 5, 4 and 0. -/
theorem crcBitStepFormulas : Obligations.CrcBitStepFormulas := by
  intro a d
  rw [crc8Bit_eq_xor]
  cases xor a[7] d <;> simp [crcPoly]

/-- A shift round is a bit step that takes in a 0. -/
theorem crcRound_eq_crc8Bit (t : Byte) : crcRound t = crc8Bit t false := by
  simp [crcRound, crc8Bit]

/-- R114 with input bit 0. -/
theorem getElem_crcRound (t : Byte) :
    (crcRound t)[0] = t[7] ∧ (crcRound t)[1] = t[0] ∧ (crcRound t)[2] = t[1] ∧ (crcRound t)[3] = t[2]
    ∧ (crcRound t)[4] = xor t[3] t[7] ∧ (crcRound t)[5] = xor t[4] t[7]
    ∧ (crcRound t)[6] = t[5] ∧ (crcRound t)[7] = t[6] := by
  simpa [crcRound_eq_crc8Bit] using crcBitStepFormulas t false

/-- Every bit of the operand stands in some bit of the result, so only 0 goes to 0. -/
theorem crcRound_eq_zero_iff {t : Byte} : crcRound t = 0 ↔ t = 0 := by
  refine ⟨fun h => ?_, fun h => by subst h; rfl⟩
  have hbits := getElem_crcRound t
  rw [h] at hbits
  ext i hi
  interval_cases i <;> simp_all

theorem crcRound_injective : Function.Injective crcRound := by
  intro x y h
  refine BitVec.xor_eq_zero_iff.mp (crcRound_eq_zero_iff.mp ?_)
  rw [crcRound_xor]
  exact BitVec.xor_eq_zero_iff.mpr h

/-! ### The byte step in its other forms (R120, R121, R122) -/

/-- A byte already added to the accumulator (left) or still waiting in front of it (right): one round takes in its
most significant bit and moves the rest up. -/
theorem crcRound_xor_eq_crc8Bit (a c : Byte) : crcRound (a ^^^ c) = crc8Bit a c.msb ^^^ c <<< 1 := by
  simp only [crcRound, crc8Bit, BitVec.msb_xor, BitVec.shiftLeft_xor_distrib]
  split <;> ac_rfl

/-- After eight rounds nothing of the byte waits any more. -/
theorem crc8Byte_eq_crc8Serial (a b : Byte) : crc8Byte a b = crc8Serial a b := by
  simp only [crc8Byte, crcRound_xor_eq_crc8Bit]
  simp [crc8Serial, ← BitVec.shiftLeft_add, BitVec.msb_eq_getLsbD_last]

/-- Settles O3: the eight bit steps are `crc8Serial`. -/
theorem crcSerialFormAgrees : Obligations.CrcSerialFormAgrees := crc8Byte_eq_crc8Serial

/-- Settles O4: the byte step sees its operands through their exclusive-or. -/
theorem crcTableFormAgrees : Obligations.CrcTableFormAgrees := ⟨crc8Byte_eq_xor, by decide, by decide⟩

/-- Settles O5: the bits of a round, eight times; bits that come in twice cancel. -/
theorem crcParallelFormAgrees : Obligations.CrcParallelFormAgrees := by
  intro a b t n
  have hn : n = crcRound (crcRound (crcRound (crcRound (crcRound (crcRound (crcRound (crcRound t))))))) := rfl
  simp only [hn, getElem_crcRound]
  refine ⟨?_, ?_, ?_, ?_, ?_, ?_, ?_, ?_⟩ <;> simp [Bool.xor_comm, Bool.xor_left_comm]

/-! ### The checksum of a sequence and the operation CSUM (R116, R117, R123) -/

/-- Settles O1: `crc8` folds the byte step over the sequence. -/
theorem crcOfSequence : Obligations.CrcOfSequence := ⟨rfl, fun s b => crc8_append s [b], fun _ => crc8_pair _ _⟩

theorem crc8Byte_eq_zero_iff {a b : Byte} : crc8Byte a b = 0 ↔ a = b := by
  simp only [crc8Byte, crcRound_eq_zero_iff]
  exact BitVec.xor_eq_zero_iff

/-- A validator may take the checksum of the whole block and compare with 0. -/
theorem check_iff_crc8_eq_zero (b : Block) : b.check = true ↔ crc8 [b.b0, b.b1, b.c] = 0 := by
  have hcrc : crc8 [b.b0, b.b1, b.c] = crc8Byte b.recomputed b.c := rfl
  rw [hcrc, crc8Byte_eq_zero_iff, Block.check, beq_iff_eq]

/-- Settles O6: the last byte meets an accumulator equal to it. -/
theorem crcResidueIsZero : Obligations.CrcResidueIsZero :=
  ⟨fun s => (crc8_append s [crc8 s]).trans (crc8Byte_self _), check_iff_crc8_eq_zero⟩

theorem exec_csum (bs : List Byte) (s : State) : exec (.csum bs) s = execCsum bs s := rfl

/-- Settles O8: acceptance empties the scratch, and delivery makes the block idle again. -/
theorem csumCompletes : Obligations.CsumCompletes := by
  intro bs s hb
  rw [exec_csum, execCsum_ready hb, hb]
  rfl

/-! ### The syndrome of an error pattern (R124)

What an error pattern leaves in an accumulator that starts at 0. It decides whether a valid block stays valid. -/

/-- The three bytes of an error pattern, in the order of the block's. -/
def patternBytes (e : BitVec 24) : List Byte := [e.extractLsb' 16 8, e.extractLsb' 8 8, e.extractLsb' 0 8]

def syndrome (e : BitVec 24) : Byte := (patternBytes e).foldl crc8Byte 0

/-- The byte step over two sequences of equal length added byte by byte. -/
theorem foldl_crc8Byte_zipWith_xor {s t : List Byte} (h : s.length = t.length) (a a' : Byte) :
    (List.zipWith (· ^^^ ·) s t).foldl crc8Byte (a ^^^ a') = s.foldl crc8Byte a ^^^ t.foldl crc8Byte a' := by
  induction s generalizing t a a' with
  | nil =>
    obtain rfl : t = [] := by simpa using h.symm
    rfl
  | cons x xs ih =>
    obtain ⟨y, ys, rfl⟩ : ∃ y ys, t = y :: ys := List.exists_cons_of_length_eq_add_one h.symm
    rw [List.zipWith_cons_cons, List.foldl_cons, List.foldl_cons, List.foldl_cons, crc8Byte_xor]
    exact ih (by simpa using h) _ _

theorem patternBytes_xor (e f : BitVec 24) :
    patternBytes (e ^^^ f) = List.zipWith (· ^^^ ·) (patternBytes e) (patternBytes f) := by
  simp [patternBytes, BitVec.extractLsb'_xor]

theorem syndrome_xor (e f : BitVec 24) : syndrome (e ^^^ f) = syndrome e ^^^ syndrome f := by
  have h := foldl_crc8Byte_zipWith_xor (s := patternBytes e) (t := patternBytes f) rfl 0 0
  rwa [BitVec.xor_self, ← patternBytes_xor] at h

/-- The checksum changes by the syndrome, whatever the block holds. -/
theorem crc8_flipBits (b : Block) (e : BitVec 24) :
    crc8 [(flipBits b e).b0, (flipBits b e).b1, (flipBits b e).c] = crc8 [b.b0, b.b1, b.c] ^^^ syndrome e := by
  have h := foldl_crc8Byte_zipWith_xor (s := [b.b0, b.b1, b.c]) (t := patternBytes e) rfl crcInit 0
  rwa [show crcInit ^^^ 0 = crcInit from BitVec.xor_zero] at h

theorem check_flipBits_iff {b : Block} (hb : b.check = true) (e : BitVec 24) :
    (flipBits b e).check = true ↔ syndrome e = 0 := by
  have hcrc := crc8_flipBits b e
  rw [(check_iff_crc8_eq_zero b).mp hb, show 0x00 ^^^ syndrome e = syndrome e from BitVec.zero_xor] at hcrc
  rw [check_iff_crc8_eq_zero, hcrc]

/-! ### Patterns of odd weight: the generator has an even number of terms -/

/-- Whether an odd number of bits are 1. -/
def bitParity {w : Nat} (x : BitVec w) : Bool := (List.range w).foldr (fun i b => xor (x.getLsbD i) b) false

theorem countP_mod_two (p : Nat → Bool) (l : List Nat) :
    l.countP p % 2 = (l.foldr (fun i b => xor (p i) b) false).toNat := by
  induction l with
  | nil => rfl
  | cons i l ih =>
    rw [List.countP_cons, Nat.add_mod, ih, List.foldr_cons]
    cases p i <;> cases l.foldr (fun i b => xor (p i) b) false <;> rfl

theorem weight_mod_two (e : BitVec 24) : weight e % 2 = (bitParity e).toNat := countP_mod_two _ _

theorem foldr_xor_xor (p q : Nat → Bool) (l : List Nat) :
    l.foldr (fun i b => xor (xor (p i) (q i)) b) false =
      xor (l.foldr (fun i b => xor (p i) b) false) (l.foldr (fun i b => xor (q i) b) false) := by
  induction l with
  | nil => rfl
  | cons i l ih =>
    rw [List.foldr_cons, ih, List.foldr_cons, List.foldr_cons]
    simp only [Bool.xor_assoc, Bool.xor_left_comm]

theorem bitParity_xor {w : Nat} (x y : BitVec w) : bitParity (x ^^^ y) = xor (bitParity x) (bitParity y) := by
  simp only [bitParity, BitVec.getLsbD_xor, foldr_xor_xor]

/-- A bit shifted out comes back in three places. -/
theorem bitParity_crcRound (t : Byte) : bitParity (crcRound t) = bitParity t := by
  simp [bitParity, List.range_succ, getElem_crcRound, Bool.xor_comm, Bool.xor_left_comm]

theorem bitParity_crc8Byte (a b : Byte) : bitParity (crc8Byte a b) = xor (bitParity a) (bitParity b) := by
  simp only [crc8Byte, bitParity_crcRound, bitParity_xor]

theorem bitParity_eq_xor_bytes (e : BitVec 24) : bitParity e =
    xor (bitParity (e.extractLsb' 0 8)) (xor (bitParity (e.extractLsb' 8 8)) (bitParity (e.extractLsb' 16 8))) := by
  simp [bitParity, List.range_succ]

theorem bitParity_syndrome (e : BitVec 24) : bitParity (syndrome e) = bitParity e := by
  have hzero : bitParity (0 : Byte) = false := rfl
  simp only [syndrome, patternBytes, List.foldl_cons, List.foldl_nil, bitParity_crc8Byte, hzero, Bool.false_xor]
  rw [bitParity_eq_xor_bytes e, Bool.xor_comm, Bool.xor_comm (bitParity (e.extractLsb' 16 8))]

theorem syndrome_ne_zero_of_odd_weight {e : BitVec 24} (h : weight e % 2 = 1) : syndrome e ≠ 0 := by
  intro hzero
  have hparity : bitParity e = false := by rw [← bitParity_syndrome, hzero]; rfl
  simp [weight_mod_two, hparity] at h

/-! ### Shifted patterns: a place further left is one round more -/

/-- The shift register: the leading 0 leaves an accumulator of 0 as it is, and the 0 that comes in last is a round. -/
theorem syndrome_shiftLeft_one {e : BitVec 24} (h : e.msb = false) : syndrome (e <<< 1) = crcRound (syndrome e) := by
  have hstay : crc8Bit 0#8 false = 0#8 := rfl
  have hlead : e[23] = false := by simpa [BitVec.msb_eq_getLsbD_last] using h
  simp [syndrome, patternBytes, crc8Byte_eq_crc8Serial, crc8Serial, crcRound_eq_crc8Bit, hlead, hstay]

theorem syndrome_shiftLeft {e : BitVec 24} {k : Nat} (h : ∀ j < k, e.getMsbD j = false) :
    syndrome (e <<< k) = crcRound^[k] (syndrome e) := by
  induction k with
  | zero => rw [BitVec.shiftLeft_zero, Function.iterate_zero_apply]
  | succ k ih =>
    have hmsb : (e <<< k).msb = false := BitVec.msb_shiftLeft.trans (h k (by omega))
    rw [BitVec.shiftLeft_add, syndrome_shiftLeft_one hmsb, ih fun j hj => h j (by omega), Function.iterate_succ_apply']

theorem extractLsb'_zeroExtend_eq_zero (p : Byte) {start : Nat} (h : 8 ≤ start) :
    (p.zeroExtend 24).extractLsb' start 8 = 0 := by
  refine BitVec.eq_of_getLsbD_eq fun i hi => ?_
  have hout : p.getLsbD (start + i) = false := BitVec.getLsbD_of_ge p _ (by omega)
  simp [hout]

theorem patternBytes_zeroExtend (p : Byte) : patternBytes (p.zeroExtend 24) = [0, 0, p] := by
  have hlow : (p.zeroExtend 24).extractLsb' 0 8 = p := by simp [← BitVec.setWidth_eq_extractLsb']
  rw [patternBytes, extractLsb'_zeroExtend_eq_zero p (by decide), extractLsb'_zeroExtend_eq_zero p (by decide), hlow]

theorem syndrome_zeroExtend (p : Byte) : syndrome (p.zeroExtend 24) = crc8Byte 0 p := by
  rw [syndrome, patternBytes_zeroExtend, List.foldl_cons, List.foldl_cons, crc8Byte_self, crc8Byte_self]
  rfl

/-! ### Two flipped bits: the order of x modulo the generator exceeds 23 -/

theorem crcRound_iterate_ne : ∀ d < 24, 0 < d → crcRound^[d] 0x31 ≠ 0x31 := by decide

theorem syndrome_twoPow {i : Nat} (hi : i < 24) : syndrome (BitVec.twoPow 24 i) = crcRound^[i] 0x31 := by
  have hone : syndrome 1 = 0x31 := syndrome_zeroExtend 1
  rw [BitVec.twoPow_eq, ← hone]
  refine syndrome_shiftLeft fun j hj => ?_
  have hj' : 23 - j ≠ 0 := by omega
  simp [BitVec.getMsbD, hj']

theorem eq_twoPow_xor_of_weight_two {e : BitVec 24} (h : weight e = 2) :
    ∃ i j, i < j ∧ j < 24 ∧ e = BitVec.twoPow 24 i ^^^ BitVec.twoPow 24 j := by
  rw [weight, List.countP_eq_length_filter, List.length_eq_two] at h
  obtain ⟨i, j, hset⟩ := h
  have hlt : i < j := by
    simpa [hset] using (List.pairwise_lt_range (n := 24)).filter fun k => e.getLsbD k
  have hmem (k : Nat) : k < 24 ∧ e.getLsbD k = true ↔ k = i ∨ k = j := by
    rw [← List.mem_range, ← List.mem_filter (p := fun k => e.getLsbD k), hset]
    simp
  obtain ⟨hj, -⟩ := (hmem j).mpr (.inr rfl)
  have hi : i < 24 := hlt.trans hj
  refine ⟨i, j, hlt, hj, BitVec.eq_of_getLsbD_eq fun k hk => ?_⟩
  have hbit : e.getLsbD k = true ↔ k = i ∨ k = j := by simpa [hk] using hmem k
  rw [Bool.eq_iff_iff, hbit, BitVec.getLsbD_xor, BitVec.getLsbD_twoPow, BitVec.getLsbD_twoPow]
  suffices h : k = i ∨ k = j ↔ ¬(i = k ↔ j = k) by simpa [hi, hj] using h
  omega

theorem syndrome_ne_zero_of_weight_two {e : BitVec 24} (h : weight e = 2) : syndrome e ≠ 0 := by
  obtain ⟨i, j, hij, hj, rfl⟩ := eq_twoPow_xor_of_weight_two h
  rw [syndrome_xor, syndrome_twoPow (hij.trans hj), syndrome_twoPow hj]
  intro hzero
  have heq : crcRound^[j] 0x31 = crcRound^[i] 0x31 := (BitVec.xor_eq_zero_iff.mp hzero).symm
  exact crcRound_iterate_ne (j - i) (by omega) (by omega) (Function.iterate_cancel crcRound_injective heq)

/-! ### Bursts, the undetected pattern, and the statement -/

/-- What a shift by more than 16 loses can be left out of the burst beforehand. -/
theorem isBurst_within {e : BitVec 24} (h : isBurst e) :
    ∃ (p : Byte) (k : Nat), k ≤ 16 ∧ e = p.zeroExtend 24 <<< k := by
  obtain ⟨p, k, rfl⟩ := h
  rcases Nat.le_total k 16 with hk | hk
  · exact ⟨p, k, hk, rfl⟩
  · refine ⟨p <<< (k - 16), 16, le_rfl, BitVec.eq_of_getLsbD_eq fun i hi => ?_⟩
    have hsub : i - 16 - (k - 16) = i - k := by omega
    have hleft : i - k < 24 := by omega
    have hbyte : i - 16 < 8 := by omega
    have hwide : i - 16 < 24 := by omega
    have hlow : i < k ↔ i < 16 ∨ i - 16 < k - 16 := by omega
    simp only [BitVec.getLsbD_shiftLeft, BitVec.truncate_eq_setWidth, BitVec.getLsbD_setWidth, hsub, hleft,
      hbyte, hwide, hlow, Bool.decide_or, Bool.not_or, Bool.and_assoc, decide_true, Bool.true_and]

theorem eq_zero_of_burst_of_syndrome {e : BitVec 24} (h : isBurst e) (hzero : syndrome e = 0) : e = 0 := by
  obtain ⟨p, k, hk, rfl⟩ := isBurst_within h
  have hlead : ∀ j < k, (p.zeroExtend 24).getMsbD j = false := by
    intro j hj
    have hout : p.getLsbD (23 - j) = false := BitVec.getLsbD_of_ge p _ (by omega)
    simp [BitVec.getMsbD, hout]
  rw [syndrome_shiftLeft hlead, syndrome_zeroExtend] at hzero
  have hfix : crcRound^[k] 0 = 0 := Function.iterate_fixed rfl k
  have hp : crc8Byte 0 p = 0 := crcRound_injective.iterate k (hzero.trans hfix.symm)
  obtain rfl : 0 = p := crc8Byte_eq_zero_iff.mp hp
  simp

theorem weight_ne_zero {e : BitVec 24} (he : e ≠ 0) : weight e ≠ 0 := by
  intro h
  refine he (BitVec.eq_of_getLsbD_eq fun i hi => ?_)
  simpa using List.countP_eq_zero.mp h i (List.mem_range.mpr hi)

/-- The pattern is a multiple of the generator. -/
theorem syndrome_undetected : syndrome 0x800023 = 0 := by
  have hbytes : patternBytes 0x800023 = [0x80, 0, 0x23] := by decide
  have hfirst : crc8Byte 0 0x80 = 0x7A := by decide
  have hsecond : crc8Byte 0x7A 0 = 0x23 := by decide
  rw [syndrome, hbytes, List.foldl_cons, List.foldl_cons, List.foldl_cons, hfirst, hsecond, crc8Byte_self]
  rfl

/-- Settles O7: the block stays valid exactly when the syndrome is 0. -/
theorem blockErrorDetection : Obligations.BlockErrorDetection := by
  refine ⟨fun b e hb he hcase => ?_, fun b hb => ⟨by decide, (check_flipBits_iff hb _).mpr syndrome_undetected⟩⟩
  rw [← Bool.not_eq_true, check_flipBits_iff hb]
  obtain hfew | hodd | hburst := hcase
  · have hsome := weight_ne_zero he
    obtain htwo | hodd : weight e = 2 ∨ weight e % 2 = 1 := by omega
    · exact syndrome_ne_zero_of_weight_two htwo
    · exact syndrome_ne_zero_of_odd_weight hodd
  · exact syndrome_ne_zero_of_odd_weight hodd
  · exact fun hzero => he (eq_zero_of_burst_of_syndrome hburst hzero)

end Sys2Proof.Machine
end

section
/-! Proofs of the statements of 41_serialize.md: the operation FRAME, and what the serialiser builds read back by the
validator. -/

namespace Sys2Proof.Machine

/-! ### The operation FRAME (R143) -/

theorem exec_frame (op : Word) (pay : List Word) (s : State) : exec (.frame op pay) s = execFrame op pay s := rfl

/-- Settles O9: acceptance empties the scratch, the frame is built in `TX`, and delivery makes the block idle again. -/
theorem frameCompletes : Obligations.FrameCompletes := by
  intro op pay s hb
  obtain ⟨acc, hframe⟩ := execFrame_ready hb op pay
  refine ⟨acc, ?_⟩
  rw [exec_frame, hframe, hb]
  rfl

/-! ### The blocks the serialiser builds (R148) -/

/-- The block `attach w` is received as (41_serialize.md R141). -/
def blockOfWord (w : Word) : Block := ⟨w.extractLsb' 8 8, w.extractLsb' 0 8, crc8 (ser16 w)⟩

theorem partition_attach_append (w : Word) (rest : List Byte) :
    partition (attach w ++ rest) = blockOfWord w :: partition rest := rfl

theorem partition_flatMap_attach (ws : List Word) : partition (ws.flatMap attach) = ws.map blockOfWord := by
  induction ws with
  | nil => rfl
  | cons w ws ih => rw [List.flatMap_cons, partition_attach_append, ih, List.map_cons]

/-- The checksum attached to a word covers the two bytes the validator recomputes it over. -/
theorem blockOfWord_recomputed (w : Word) : (blockOfWord w).recomputed = (blockOfWord w).c := rfl

theorem blockOfWord_check (w : Word) : (blockOfWord w).check = true := beq_iff_eq.mpr (blockOfWord_recomputed w)

theorem words_flatMap_attach (ws : List Word) : words (ws.flatMap attach) = ws := by
  simp [words, partition_flatMap_attach, blockOfWord, Function.comp_def]

theorem validate_flatMap_attach (ws : List Word) : validate (ws.flatMap attach) = .valid := by
  apply validate_of_eq
  simp only [rcvOf, calcOf, partition_flatMap_attach, List.map_map, Function.comp_def, blockOfWord_recomputed]

/-- Settles O11: the attached blocks, received again, are the blocks of the words, and each of those checks. -/
theorem wordsRoundTrip : Obligations.WordsRoundTrip := by
  refine ⟨des16_extract, fun w => ⟨rfl, fun b hb => ?_⟩,
    fun ws => ⟨words_flatMap_attach ws, validate_flatMap_attach ws⟩⟩
  obtain rfl : b = blockOfWord w := List.mem_singleton.mp hb
  exact blockOfWord_check w

end Sys2Proof.Machine
end

section
/-! Proofs of the statements of 42_validate.md: the lists of a buffer entry by entry, what an entry depends on, and the
operation VALID. -/

namespace Sys2Proof.Machine

/-! ### The blocks of a buffer (R161) -/

/-- Block `i` of a buffer, read off the buffer's three bytes at `3 * i`, if they are there (42_validate.md R161). -/
def blockAt (buf : List Byte) (i : Nat) : Option Block :=
  buf[3 * i]?.bind fun b0 => buf[3 * i + 1]?.bind fun b1 => buf[3 * i + 2]?.map fun c => ⟨b0, b1, c⟩

theorem blockAt_of_bytes {buf : List Byte} {i : Nat} {b0 b1 c : Byte} (h0 : buf[3 * i]? = some b0)
    (h1 : buf[3 * i + 1]? = some b1) (h2 : buf[3 * i + 2]? = some c) : blockAt buf i = some ⟨b0, b1, c⟩ := by
  simp [blockAt, h0, h1, h2]

theorem blockAt_congr {x y : List Byte} {i : Nat} (h0 : x[3 * i]? = y[3 * i]?) (h1 : x[3 * i + 1]? = y[3 * i + 1]?)
    (h2 : x[3 * i + 2]? = y[3 * i + 2]?) : blockAt x i = blockAt y i := by
  rw [blockAt, blockAt, h0, h1, h2]

theorem blockAt_eq_none_of_short {buf : List Byte} (h : buf.length < 3) (i : Nat) : blockAt buf i = none := by
  simp [blockAt, List.getElem?_eq_none (l := buf) (i := 3 * i + 2) (by omega)]

/-- The partition holds the buffer's blocks in order; bytes left over at the end make none. -/
theorem getElem?_partition (buf : List Byte) (i : Nat) : (partition buf)[i]? = blockAt buf i := by
  match buf, i with
  | [], _ | [_], _ | [_, _], _ => exact (blockAt_eq_none_of_short (by simp) _).symm
  | _ :: _ :: _ :: _, 0 => rfl
  | _ :: _ :: _ :: rest, i + 1 => exact getElem?_partition rest i

theorem partition_length {buf : List Byte} {k : Nat} (h : buf.length = 3 * k) : (partition buf).length = k := by
  induction k generalizing buf with
  | zero => rw [List.eq_nil_of_length_eq_zero h, partition_nil, List.length_nil]
  | succ k ih =>
    obtain ⟨b0, b1, c, rest, rfl, hrest⟩ := exists_block h
    rw [partition_cons, List.length_cons, ih hrest]

/-! ### The lists and the words (R162, R165, R168) -/

theorem getElem?_rcvOf (buf : List Byte) (i : Nat) : (rcvOf buf)[i]? = (blockAt buf i).map Block.c := by
  rw [rcvOf, List.getElem?_map, getElem?_partition]

theorem getElem?_calcOf (buf : List Byte) (i : Nat) : (calcOf buf)[i]? = (blockAt buf i).map Block.recomputed := by
  rw [calcOf, List.getElem?_map, getElem?_partition]

theorem getElem?_words (buf : List Byte) (i : Nat) :
    (words buf)[i]? = (blockAt buf i).map fun b => des16 b.b0 b.b1 := by
  rw [words, List.getElem?_map, getElem?_partition]

/-- Settles O13: each list is the partition mapped, so it has one entry per block, and entry `i` is that of the block
at `3 * i`. -/
theorem validationLists : Obligations.ValidationLists := by
  intro buf k hk
  have hlength := partition_length hk
  refine ⟨by rw [rcvOf, List.length_map, hlength], by rw [calcOf, List.length_map, hlength],
    by rw [words, List.length_map, hlength], fun i b0 b1 c h0 h1 h2 => ?_⟩
  have hblock := blockAt_of_bytes h0 h1 h2
  rw [getElem?_rcvOf, getElem?_calcOf, getElem?_words, hblock]
  exact ⟨rfl, rfl, rfl⟩

/-- Settles O14: buffers that agree on the three bytes of a block have the same block there, and the block gives both
entries. -/
theorem blocksAreIndependent : Obligations.BlocksAreIndependent := by
  intro x y k j _ _ h0 h1 h2
  have hblock := blockAt_congr h0 h1 h2
  exact ⟨by rw [getElem?_rcvOf, getElem?_rcvOf, hblock], by rw [getElem?_calcOf, getElem?_calcOf, hblock]⟩

/-! ### The operation VALID (R164) -/

theorem validResult_eq_ite (buf : List Byte) : validResult buf =
    if rcvOf buf = calcOf buf then .ok (.words (words buf))
    else .err (.checksumMismatch (rcvOf buf) (calcOf buf)) := by
  split
  case isTrue hvalid => rw [validResult, validate_of_eq hvalid]
  case isFalse hinvalid => rw [validResult, validate_of_ne hinvalid]

theorem exec_valid (buf : List Byte) (s : State) : exec (.valid buf) s = execValid buf s := rfl

/-- Settles O15: whole blocks are put in `RX` and validated, and the delivered result is the comparison of the two
lists; any other length is refused. -/
theorem validCompletes : Obligations.ValidCompletes := by
  intro buf s hb
  refine ⟨fun hm => ⟨(calcOf buf).getLastD s.acc, ?_⟩, fun hm => ?_⟩
  · rw [exec_valid, execValid_ready hb hm, validResult_eq_ite, hb]
    rfl
  · rw [exec_valid, execValid_not_blocks hb hm]

end Sys2Proof.Machine
end

section
/-! Proofs of the statements of 43_execute.md: the eight steps of EXEC one by one, the endings of the whole operation,
and what all endings have in common. -/

namespace Sys2Proof.Machine

open Sys2Proof.Claims

/-! ### Steps 1 and 2: the frame (R182, R183) -/

theorem stepS2_spec (s : State) :
    ∃ acc, stepS2 s = { s with tx := s.tx ++ s.desc.pay.flatMap attach, acc := acc, ph := .s3 } := by
  obtain ⟨acc, hloop⟩ := appendWords_spec s.desc.pay s
  exact ⟨acc, by rw [stepS2, hloop]; rfl⟩

theorem runPhases_s1_to_s3 {s : State} (hp : s.ph = .s1) :
    ∃ acc, runPhases 2 s = .next { s with tx := frame s.desc.op s.desc.pay, acc := acc, ph := .s3 } := by
  obtain ⟨acc, hloop⟩ := stepS2_spec (stepS1 s)
  refine ⟨acc, ?_⟩
  rw [runPhases_succ_next (phaseStep_s1 hp), runPhases_succ_next (phaseStep_s2 rfl), hloop]
  rfl

/-- Settles O16: step 1 lays the opcode, step 2 appends the attached words, and the frame is the one after the other. -/
theorem stepsOneAndTwoBuildFrame : Obligations.StepsOneAndTwoBuildFrame := by
  intro s
  refine ⟨fun hp => ⟨phaseStep_s1 hp, runPhases_s1_to_s3 hp⟩, fun hp => ?_⟩
  obtain ⟨acc, hloop⟩ := stepS2_spec s
  exact ⟨acc, (phaseStep_s2 hp).trans (congrArg _ hloop)⟩

/-! ### Step 3: the write (R184) -/

theorem stepS3_unanswered {s : State} (hw : s.writeAnswers = []) : stepS3 s = s := by
  simp [stepS3, hw]

theorem stepS3_written {s : State} {rest : List WriteAnswer} (hw : s.writeAnswers = .ok :: rest) :
    stepS3 s = (transportWrite .ok rest s).setPh .s4 := by
  simp [stepS3, hw]

theorem stepS3_fails {s : State} {e : TransportFailure} {k : Nat} {rest : List WriteAnswer}
    (hw : s.writeAnswers = .err e k :: rest) :
    stepS3 s = raise (.transportError e) (transportWrite (.err e k) rest s) := by
  simp [stepS3, hw]

/-- Settles O17: the next answer to a write, if there is one, decides the move out of S3. -/
theorem stepThreeWrites : Obligations.StepThreeWrites := by
  intro s hp
  have hmove := phaseStep_s3 hp
  refine ⟨fun hw => ?_, fun rest hw => ?_, fun e k rest hw => ?_⟩
  · exact hmove.trans (congrArg _ (stepS3_unanswered hw))
  · exact hmove.trans (congrArg _ (stepS3_written hw))
  · exact hmove.trans (congrArg _ (stepS3_fails hw))

/-! ### Steps 4 and 5: the wait, and the end without a response (R185, R186) -/

theorem stepS4_eq (s : State) : stepS4 s = { s with ev := s.ev ++ waitEvents s.desc.wait, ph := .s5 } := by
  rw [stepS4, timerSleep_eq]
  rfl

/-- Settles O18: the sleep leaves the wait's event, and the response length decides the move out of S5. -/
theorem stepsFourAndFive : Obligations.StepsFourAndFive := by
  intro s
  refine ⟨fun hp => ?_, fun hp hl => ?_, fun hp hl => ?_⟩
  · exact (phaseStep_s4 hp).trans (congrArg _ (stepS4_eq s))
  · exact (phaseStep_s5 hp).trans (congrArg _ (if_pos hl))
  · exact (phaseStep_s5 hp).trans (congrArg _ (if_neg hl))

/-! ### Step 6: the read and the length test (R187) -/

theorem failedRead_of_few {n : Nat} {bs : List Byte} (h : bs.length < n) :
    failedRead n (.bytes bs) = some (.shortResponse n (.received bs.length)) := if_pos h

/-- A read that does not fail brings at least the bytes asked for. -/
theorem bytes_of_failedRead_eq_none {n : Nat} {o : ReadOutcome} (h : failedRead n o = none) :
    ∃ bs, o = .bytes bs ∧ n ≤ bs.length := by
  cases o with
  | err e => cases h
  | short => cases h
  | bytes bs => exact ⟨bs, rfl, by simpa [failedRead] using h⟩

theorem stepS6_unanswered {s : State} (hr : s.readAnswers = []) : stepS6 s = .next s := by
  simp [stepS6, hr]

/-- A failed read ends the operation with its error, whichever of the three kinds it is. -/
theorem stepS6_fails {s : State} {o : ReadOutcome} {rest : List ReadOutcome} {e : OpError}
    (hr : s.readAnswers = o :: rest) (hf : failedRead s.desc.rlen o = some e) :
    stepS6 s = .next (raise e (transportRead o rest s)) := by
  cases o with
  | err _ => cases hf; simp [stepS6, hr]
  | short => cases hf; simp [stepS6, hr]
  | bytes bs =>
    by_cases hl : bs.length < s.desc.rlen
    · rw [failedRead_of_few hl] at hf
      cases hf
      simp [stepS6, hr, hl]
    · simp [failedRead, hl] at hf

theorem stepS6_full {s : State} {bs : List Byte} {rest : List ReadOutcome} (hr : s.readAnswers = .bytes bs :: rest)
    (hl : bs.length = s.desc.rlen) : stepS6 s = .next (((transportRead (.bytes bs) rest s).setRx bs).setPh .s7) := by
  simp [stepS6, hr, hl]

theorem stepS6_overlong {s : State} {bs : List Byte} {rest : List ReadOutcome}
    (hr : s.readAnswers = .bytes bs :: rest) (hl : s.desc.rlen < bs.length) : stepS6 s = .refused .overlongRead := by
  simp [stepS6, hr, hl.ne', hl.le]

/-- Settles O19: without an answer the block stays; a failed read raises its error, the other two kinds of answer are
the full buffer and the overlong one. -/
theorem stepSixReads : Obligations.StepSixReads := by
  intro s hp
  have hmove := phaseStep_s6 hp
  refine ⟨fun hr => hmove.trans (stepS6_unanswered hr), fun o rest hr => ⟨?_, ?_, ?_⟩⟩
  · rintro e rfl
    exact hmove.trans (stepS6_fails hr rfl)
  · rintro rfl
    exact hmove.trans (stepS6_fails hr rfl)
  · rintro bs rfl
    exact ⟨fun hl => hmove.trans (stepS6_fails hr (failedRead_of_few hl)),
      fun hl => hmove.trans (stepS6_full hr hl), fun hl => hmove.trans (stepS6_overlong hr hl)⟩

/-! ### Steps 7 and 8: validation, and the raw buffer (R188, R189) -/

theorem stepS7_unenforced {s : State} (he : s.cfgEnforce = false) : stepS7 s = s.setPh .s8 := by
  simp [stepS7, he]

theorem stepS7_valid {s : State} (he : s.cfgEnforce = true) (hv : rcvOf s.rx = calcOf s.rx) :
    stepS7 s = (runValidation s).setPh .s8 := by
  simp [stepS7, he, validate_of_eq hv]

theorem stepS7_mismatch {s : State} (he : s.cfgEnforce = true) (hv : rcvOf s.rx ≠ calcOf s.rx) :
    stepS7 s = raise (.checksumMismatch (rcvOf s.rx) (calcOf s.rx)) (runValidation s) := by
  simp [stepS7, he, validate_of_ne hv]

/-- Settles O20: the setting decides whether step 7 validates, and the two lists decide where that leads. -/
theorem stepsSevenAndEight : Obligations.StepsSevenAndEight := by
  intro s
  refine ⟨fun hp he => ?_, fun hp he => ⟨(calcOf s.rx).getLastD s.acc, fun hv => ?_, fun hv => ?_⟩, fun hp => ?_⟩
  · exact (phaseStep_s7 hp).trans (congrArg _ (stepS7_unenforced he))
  · exact (phaseStep_s7 hp).trans (congrArg _ (stepS7_valid he hv))
  · exact (phaseStep_s7 hp).trans (congrArg _ (stepS7_mismatch he hv))
  · exact phaseStep_s8 hp

/-! ### The endings of EXEC

One lemma per ending, for an EXEC presented with or without a waiting recipe; the two in which a call has no answer are
`presentExec_unanswered_write` and `presentExec_unanswered_read`. -/

/-- The result of an EXEC that has read a full response (R188, R189). -/
def fullReadResult (enforce : Bool) (bs : List Byte) : Result :=
  if enforce = true ∧ rcvOf bs ≠ calcOf bs then .err (.checksumMismatch (rcvOf bs) (calcOf bs)) else .ok (.bytes bs)

theorem fullReadResult_unenforced (bs : List Byte) : fullReadResult false bs = .ok (.bytes bs) := by
  simp [fullReadResult]

theorem fullReadResult_valid {bs : List Byte} (enforce : Bool) (hv : rcvOf bs = calcOf bs) :
    fullReadResult enforce bs = .ok (.bytes bs) := by
  simp [fullReadResult, hv]

theorem fullReadResult_mismatch {bs : List Byte} (hv : rcvOf bs ≠ calcOf bs) :
    fullReadResult true bs = .err (.checksumMismatch (rcvOf bs) (calcOf bs)) := by
  simp [fullReadResult, hv]

section Endings

variable {d : Desc} {s : State} {o : ReadOutcome} {ws : List WriteAnswer} {rs : List ReadOutcome} {bs : List Byte}
  (dec : Option Decoder)

theorem presentExec_write_fails {e : TransportFailure} {k : Nat} (hb : s.busy = false) (hm : d.rlen % 3 = 0)
    (hw : s.writeAnswers = .err e k :: ws) :
    ∃ acc, presentExec dec d s
      = .next (raise (.transportError e) (transportWrite (.err e k) ws (atWrite dec d acc s))) := by
  obtain ⟨acc, hexec⟩ := presentExec_atWrite dec hb hm
  exact ⟨acc, hexec.trans (runPhases_s3_fails (s := atWrite dec d acc s) rfl hw 5)⟩

theorem presentExec_no_response (hb : s.busy = false) (hl : d.rlen = 0) (hw : s.writeAnswers = .ok :: ws) :
    ∃ acc, presentExec dec d s = .next (doneCommand s d acc (dec.bind (·.apply (.ok .nothing))) ws) := by
  obtain ⟨acc, hexec⟩ := presentExec_atWrite dec hb (by rw [hl])
  exact ⟨acc, hexec.trans (runPhases_s3_no_response (s := atWrite dec d acc s) rfl hw hl)⟩

theorem presentExec_atRead (hb : s.busy = false) (hm : d.rlen % 3 = 0) (hl : d.rlen ≠ 0)
    (hw : s.writeAnswers = .ok :: ws) :
    ∃ acc, presentExec dec d s = runPhases 3 (atRead dec d acc ws s) := by
  obtain ⟨acc, hexec⟩ := presentExec_atWrite dec hb hm
  exact ⟨acc, hexec.trans (runPhases_atWrite_to_atRead dec acc hw hl)⟩

theorem presentExec_read_fails {e : OpError} (hb : s.busy = false) (hm : d.rlen % 3 = 0) (hl : d.rlen ≠ 0)
    (hw : s.writeAnswers = .ok :: ws) (hr : s.readAnswers = o :: rs) (hf : failedRead d.rlen o = some e) :
    ∃ acc, presentExec dec d s
      = .next (doneRead s d acc (.err e) (dec.bind (·.apply (.err e))) [] ([], []) o ws rs) := by
  obtain ⟨acc, hexec⟩ := presentExec_atRead dec hb hm hl hw
  have hmove := (phaseStep_s6 rfl).trans (stepS6_fails (s := atRead dec d acc ws s) hr hf)
  refine ⟨acc, ?_⟩
  rw [hexec, runPhases_succ_next hmove, runPhases_idle rfl]
  rfl

theorem presentExec_overlong (hb : s.busy = false) (hm : d.rlen % 3 = 0) (hl : d.rlen ≠ 0)
    (hw : s.writeAnswers = .ok :: ws) (hr : s.readAnswers = .bytes bs :: rs) (hlong : d.rlen < bs.length) :
    presentExec dec d s = .refused .overlongRead := by
  obtain ⟨acc, hexec⟩ := presentExec_atRead dec hb hm hl hw
  exact hexec.trans (runPhases_s6_overlong (s := atRead dec d acc ws s) rfl hr hlong 2)

/-- The last three moves on a full response: the read, the validation if enforced, the delivery. -/
theorem runPhases_atRead_full (acc : Byte) (hr : s.readAnswers = .bytes bs :: rs) (hl : bs.length = d.rlen) :
    ∃ acc', runPhases 3 (atRead dec d acc ws s)
      = .next (doneRead s d acc' (fullReadResult s.cfgEnforce bs)
          (dec.bind (·.apply (fullReadResult s.cfgEnforce bs))) bs (listsAfter s.cfgEnforce bs) (.bytes bs) ws rs) := by
  cases he : s.cfgEnforce with
  | false =>
    rw [runPhases_s6_unvalidated (s := atRead dec d acc ws s) rfl hr hl he, fullReadResult_unenforced]
    exact ⟨acc, rfl⟩
  | true =>
    refine ⟨(calcOf bs).getLastD acc, ?_⟩
    by_cases hv : rcvOf bs = calcOf bs
    · rw [runPhases_s6_valid (s := atRead dec d acc ws s) rfl hr hl he hv, fullReadResult_valid true hv]
      rfl
    · rw [runPhases_s6_mismatch (s := atRead dec d acc ws s) rfl hr hl he hv, fullReadResult_mismatch hv]
      rfl

theorem presentExec_full_read (hb : s.busy = false) (hm : d.rlen % 3 = 0) (hl : d.rlen ≠ 0)
    (hw : s.writeAnswers = .ok :: ws) (hr : s.readAnswers = .bytes bs :: rs) (hfull : bs.length = d.rlen) :
    ∃ acc, presentExec dec d s
      = .next (doneRead s d acc (fullReadResult s.cfgEnforce bs)
          (dec.bind (·.apply (fullReadResult s.cfgEnforce bs))) bs (listsAfter s.cfgEnforce bs) (.bytes bs) ws rs) := by
  obtain ⟨acc, hexec⟩ := presentExec_atRead dec hb hm hl hw
  obtain ⟨acc', hread⟩ := runPhases_atRead_full dec acc hr hfull
  exact ⟨acc', hexec.trans hread⟩

end Endings

/-- Settles O23: the ending at step 5. -/
theorem execFireAndForget : Obligations.ExecFireAndForget :=
  fun _ _ _ _ _ hb hw => presentExec_no_response none hb rfl hw

/-- Settles O24: the ending at step 3. -/
theorem execWriteFails : Obligations.ExecWriteFails :=
  fun _ _ _ _ _ _ _ _ hb hm hw => presentExec_write_fails none hb hm hw

/-- Settles O25: the ending at step 6. -/
theorem execFailedReads : Obligations.ExecFailedReads :=
  fun _ _ _ _ _ _ _ _ hb hm hl hw hr _ hf => presentExec_read_fails none hb hm hl hw hr hf

/-- Settles O26: the endings at steps 7 and 8. -/
theorem execFullRead : Obligations.ExecFullRead :=
  fun _ _ _ _ _ _ _ hb hm hne hw hr =>
    presentExec_full_read none hb hm (List.length_pos_of_ne_nil hne).ne' hw hr rfl

/-! ### EXEC against its pseudocode (R190) -/

section Pseudocode

variable (a : BusAddr) (enforce : Bool) {d : Desc}

theorem pseudocode_unanswered_write (r : Option ReadOutcome) : pseudocode a enforce d none r = .hangs .s3 [] := rfl

theorem pseudocode_write_fails (e : TransportFailure) (r : Option ReadOutcome) :
    pseudocode a enforce d (some (.err e)) r
      = .ends (.err (.transportError e)) [.write a (frame d.op d.pay) (.err e)] := rfl

/-- The pseudocode's events of the write and the wait are those of steps 3 and 4. -/
theorem pseudocode_command_events :
    [Event.write a (ser16 d.op ++ d.pay.flatMap fun p => ser16 p ++ [crc8 (ser16 p)]) .ok]
      ++ (if d.wait ≠ 0 then [.wait d.wait] else []) = commandEvents a d := by
  rw [ite_not]
  rfl

theorem pseudocode_no_response (hl : d.rlen = 0) (r : Option ReadOutcome) :
    pseudocode a enforce d (some .ok) r = .ends (.ok .nothing) (commandEvents a d) := by
  simp only [pseudocode, pseudocode_command_events, hl, if_true]

theorem pseudocode_unanswered_read (hl : d.rlen ≠ 0) :
    pseudocode a enforce d (some .ok) none = .hangs .s6 (commandEvents a d) := by
  simp only [pseudocode, pseudocode_command_events, hl, if_false]

theorem pseudocode_read_fails {o : ReadOutcome} {e : OpError} (hl : d.rlen ≠ 0) (hf : failedRead d.rlen o = some e) :
    pseudocode a enforce d (some .ok) (some o)
      = .ends (.err e) (commandEvents a d ++ [.read a d.rlen o]) := by
  cases o with
  | err _ => cases hf; simp only [pseudocode, pseudocode_command_events, hl, if_false]
  | short => cases hf; simp only [pseudocode, pseudocode_command_events, hl, if_false]
  | bytes bs =>
    by_cases hfew : bs.length < d.rlen
    · rw [failedRead_of_few hfew] at hf
      cases hf
      simp only [pseudocode, pseudocode_command_events, hl, hfew, if_true, if_false]
    · simp [failedRead, hfew] at hf

theorem pseudocode_overlong {bs : List Byte} (hl : d.rlen ≠ 0) (hlong : d.rlen < bs.length) :
    pseudocode a enforce d (some .ok) (some (.bytes bs)) = .refused := by
  simp only [pseudocode, hl, hlong, hlong.not_gt, if_true, if_false]

theorem pseudocode_full_read {bs : List Byte} (hl : d.rlen ≠ 0) (hfull : bs.length = d.rlen) :
    pseudocode a enforce d (some .ok) (some (.bytes bs))
      = .ends (fullReadResult enforce bs) (commandEvents a d ++ [.read a d.rlen (.bytes bs)]) := by
  simp only [pseudocode, pseudocode_command_events, hl, hfull, lt_irrefl, if_false, fullReadResult]
  split <;> rfl

end Pseudocode

/-- Settles O22: each combination of answers makes the pseudocode and EXEC end in the same way. -/
theorem execFollowsPseudocode : Obligations.ExecFollowsPseudocode := by
  intro d s hb hm
  match hw : s.writeAnswers with
  | [] =>
    rw [List.head?_nil, Option.map_none, pseudocode_unanswered_write]
    obtain ⟨acc, hexec⟩ := presentExec_unanswered_write none hb hm hw
    exact ⟨_, hexec, rfl, (List.append_nil _).symm, rfl, rfl, rfl, rfl, rfl, rfl⟩
  | .err e k :: ws =>
    rw [List.head?_cons, Option.map_some, WriteAnswer.outcome, pseudocode_write_fails]
    obtain ⟨acc, hexec⟩ := presentExec_write_fails none hb hm hw
    exact ⟨_, hexec, rfl, rfl, rfl, rfl, rfl, rfl, rfl, rfl⟩
  | .ok :: ws =>
    rw [List.head?_cons, Option.map_some, WriteAnswer.outcome]
    by_cases hl : d.rlen = 0
    · rw [pseudocode_no_response _ _ hl]
      obtain ⟨acc, hexec⟩ := presentExec_no_response none hb hl hw
      exact ⟨_, hexec, rfl, rfl, rfl, rfl, rfl, rfl, rfl, rfl⟩
    match hr : s.readAnswers with
    | [] =>
      rw [List.head?_nil, pseudocode_unanswered_read _ _ hl]
      obtain ⟨acc, hexec⟩ := presentExec_unanswered_read none hb hm hl hw hr
      exact ⟨_, hexec, rfl, rfl, rfl, rfl, rfl, rfl, rfl, rfl⟩
    | o :: rs =>
      rw [List.head?_cons]
      cases hf : failedRead d.rlen o with
      | some e =>
        rw [pseudocode_read_fails _ _ hl hf]
        obtain ⟨acc, hexec⟩ := presentExec_read_fails none hb hm hl hw hr hf
        exact ⟨_, hexec, rfl, List.append_assoc _ _ _, rfl, rfl, rfl, rfl, rfl, rfl⟩
      | none =>
        obtain ⟨bs, rfl, hlength⟩ := bytes_of_failedRead_eq_none hf
        obtain hlong | hfull := hlength.lt_or_eq
        · rw [pseudocode_overlong _ _ hl hlong]
          exact presentExec_overlong none hb hm hl hw hr hlong
        · rw [pseudocode_full_read _ _ hl hfull.symm]
          obtain ⟨acc, hexec⟩ := presentExec_full_read none hb hm hl hw hr hfull.symm
          exact ⟨_, hexec, rfl, List.append_assoc _ _ _, rfl, rfl, rfl, rfl, rfl, rfl⟩

/-! ### Two runs that differ in the enforcement setting (R195) -/

/-- Both runs did the same outside the block, and their results are equal or differ by ChecksumMismatch in place of the
raw buffer. -/
def SameUnlessMismatch (t u : State) : Prop :=
  u.ev = t.ev ∧ u.tx = t.tx ∧ u.wire = t.wire ∧ u.writeAnswers = t.writeAnswers ∧ u.readAnswers = t.readAnswers
  ∧ (u.res = t.res ∨ ∃ bs, rcvOf bs ≠ calcOf bs ∧ t.res = some (.ok (.bytes bs))
      ∧ u.res = some (.err (.checksumMismatch (rcvOf bs) (calcOf bs))))

/-- The full read is the one ending that looks at the setting. -/
theorem fullReadResult_enforcement (bs : List Byte) :
    fullReadResult true bs = fullReadResult false bs
    ∨ rcvOf bs ≠ calcOf bs ∧ fullReadResult false bs = .ok (.bytes bs)
      ∧ fullReadResult true bs = .err (.checksumMismatch (rcvOf bs) (calcOf bs)) := by
  by_cases hv : rcvOf bs = calcOf bs
  · exact .inl (by rw [fullReadResult_valid true hv, fullReadResult_valid false hv])
  · exact .inr ⟨hv, fullReadResult_unenforced bs, fullReadResult_mismatch hv⟩

/-- `s` with enforcement off or on, all else equal. -/
def underEnforcement (enforce : Bool) (s : State) : State := { s with cfgEnforce := enforce }

/-- Two runs agree when the ending `final` of the one setting agrees with that of the other, whatever `ACC` holds. -/
theorem sameUnlessMismatch_of_endings {d : Desc} {s t u : State} {final : Bool → Byte → State}
    (hrun : ∀ enforce, ∃ acc, presentExec none d (underEnforcement enforce s) = .next (final enforce acc))
    (hagree : ∀ acc acc', SameUnlessMismatch (final false acc) (final true acc'))
    (ht : presentExec none d (underEnforcement false s) = .next t)
    (hu : presentExec none d (underEnforcement true s) = .next u) : SameUnlessMismatch t u := by
  obtain ⟨acc, hoff⟩ := hrun false
  obtain ⟨acc', hon⟩ := hrun true
  cases ht.symm.trans hoff
  cases hu.symm.trans hon
  exact hagree acc acc'

/-- Settles O29: the answers lead both runs to the same ending, which looks at the setting only after a full read. -/
theorem enforcementOnlyGatesValidation : Obligations.EnforcementOnlyGatesValidation := by
  intro d s t u ht hu
  obtain ⟨hb, hm, -⟩ := presentExec_next ht
  match hw : s.writeAnswers with
  | [] =>
    exact sameUnlessMismatch_of_endings
      (fun e => presentExec_unanswered_write none (s := underEnforcement e s) hb hm hw)
      (fun _ _ => ⟨rfl, rfl, rfl, rfl, rfl, .inl rfl⟩) ht hu
  | .err _ _ :: _ =>
    exact sameUnlessMismatch_of_endings (fun e => presentExec_write_fails none (s := underEnforcement e s) hb hm hw)
      (fun _ _ => ⟨rfl, rfl, rfl, rfl, rfl, .inl rfl⟩) ht hu
  | .ok :: ws =>
    by_cases hl : d.rlen = 0
    · exact sameUnlessMismatch_of_endings (fun e => presentExec_no_response none (s := underEnforcement e s) hb hl hw)
        (fun _ _ => ⟨rfl, rfl, rfl, rfl, rfl, .inl rfl⟩) ht hu
    match hr : s.readAnswers with
    | [] =>
      exact sameUnlessMismatch_of_endings
        (fun e => presentExec_unanswered_read none (s := underEnforcement e s) hb hm hl hw hr)
        (fun _ _ => ⟨rfl, rfl, rfl, rfl, rfl, .inl rfl⟩) ht hu
    | o :: rs =>
      cases hf : failedRead d.rlen o with
      | some _ =>
        exact sameUnlessMismatch_of_endings
          (fun e => presentExec_read_fails none (s := underEnforcement e s) hb hm hl hw hr hf)
          (fun _ _ => ⟨rfl, rfl, rfl, rfl, rfl, .inl rfl⟩) ht hu
      | none =>
        obtain ⟨bs, rfl, hlength⟩ := bytes_of_failedRead_eq_none hf
        obtain hlong | hfull := hlength.lt_or_eq
        · cases ht.symm.trans (presentExec_overlong none (s := underEnforcement false s) hb hm hl hw hr hlong)
        · refine sameUnlessMismatch_of_endings
            (fun e => presentExec_full_read none (s := underEnforcement e s) hb hm hl hw hr hfull.symm)
            (fun _ _ => ?_) ht hu
          refine ⟨rfl, rfl, rfl, rfl, rfl, ?_⟩
          obtain heq | ⟨hv, hoff, hon⟩ := fullReadResult_enforcement bs
          · exact .inl (congrArg some heq)
          · exact .inr ⟨bs, hv, congrArg some hoff, congrArg some hon⟩

/-! ### What one operation adds to the trace (R192) -/

/-- The trace of an EXEC: nothing yet, a failed write, the write and the wait, or these and the read. -/
theorem presentExec_events {dec : Option Decoder} {d : Desc} {s t : State} (h : presentExec dec d s = .next t) :
    ∃ es, t.ev = s.ev ++ es ∧
      (es = [] ∨ (∃ e, es = [.write s.cfgAddr (frame d.op d.pay) (.err e)]) ∨ es = commandEvents s.cfgAddr d
        ∨ ∃ o, d.rlen ≠ 0 ∧ es = commandEvents s.cfgAddr d ++ [.read s.cfgAddr d.rlen o]) := by
  obtain ⟨-, -, acc, ⟨-, rfl⟩ | ⟨e, k, ws, -, rfl⟩ | ⟨ws, -, ⟨-, rfl⟩ | ⟨hl, hread⟩⟩⟩ := presentExec_next h
  · exact ⟨[], (List.append_nil _).symm, .inl rfl⟩
  · exact ⟨_, rfl, .inr (.inl ⟨e, rfl⟩)⟩
  · exact ⟨_, rfl, .inr (.inr (.inl rfl))⟩
  obtain ⟨-, rfl⟩ | ⟨o, rs, e, -, -, -, rfl⟩ | ⟨bs, rs, -, -, ⟨-, rfl⟩ | ⟨-, -, rfl⟩ | ⟨-, -, rfl⟩⟩ := hread
  · exact ⟨_, rfl, .inr (.inr (.inl rfl))⟩
  all_goals exact ⟨_, List.append_assoc _ _ _, .inr (.inr (.inr ⟨_, hl, rfl⟩))⟩

/-- Settles O34: an operation without transport adds nothing, and any other presents one EXEC. -/
theorem oneOperationTrace : Obligations.OneOperationTrace := by
  intro i s t h
  obtain ⟨-, -, r, tx, rx, rcvs, calcs, acc, rfl⟩ | ⟨dec, d, s', hrun, hs', -⟩ := exec_next i s t h
  · exact ⟨[], (List.append_nil _).symm, .inl rfl⟩
  obtain ⟨hbefore, haddr⟩ : s'.ev = s.ev ∧ s'.cfgAddr = s.cfgAddr := by
    obtain rfl | ⟨-, rfl⟩ := hs' <;> exact ⟨rfl, rfl⟩
  obtain ⟨es, hev, hes⟩ := presentExec_events hrun
  rw [hbefore] at hev
  rw [haddr] at hes
  refine ⟨es, hev, ?_⟩
  obtain hnone | hfailed | hcommand | ⟨o, hl, hread⟩ := hes
  · exact .inl hnone
  · exact .inr ⟨d.op, d.pay, .inl hfailed⟩
  · exact .inr ⟨d.op, d.pay, .inr ⟨d.wait, .inl hcommand⟩⟩
  · exact .inr ⟨d.op, d.pay, .inr ⟨d.wait, .inr ⟨d.rlen, o, hl, hread⟩⟩⟩

end Sys2Proof.Machine
end

section
/-! Proofs of the statements of 44_catalog.md: each catalogue call as the EXEC of its recipe, the calls that complete,
the encodings of the host's arguments, and the two calls that are acts of the host. -/

namespace Sys2Proof.Machine

open Sys2Proof.Claims

/-! ### The encodings of the host's arguments (R215, R217, R219) -/

section Encodings

variable {n : Int} {d : Nat} {q : Quantity}

theorem toWord_out_of_range {z : Int} (h : z < 0 ∨ 65535 < z) : toWord z = none := if_neg (by omega)

theorem toWord_eq_some {z : Int} {w : Word} (h : toWord z = some w) : 0 ≤ z ∧ z ≤ 65535 ∧ (w.toNat : Int) = z := by
  unfold toWord at h
  split at h
  · cases h
    simp only [BitVec.toNat_ofNat]
    omega
  · cases h

/-- The nearest integer lies within one half of `n / d`, a tie included. -/
theorem roundNearest_within_half (b : Bool) (n : Int) (hd : 0 < d) :
    2 * n - d ≤ 2 * roundNearest b n d * d ∧ 2 * roundNearest b n d * d ≤ 2 * n + d := by
  obtain ⟨hnear, htie⟩ := roundNearest_spec n d hd b
  cases ht : isTie n d with
  | false => obtain ⟨hlow, hhigh⟩ := hnear ht; omega
  | true => obtain ⟨hhalf, hr | hr⟩ := htie ht <;> rw [hr] <;> constructor <;> linarith

/-- What is strictly within one half of the integer `m` rounds to `m`. -/
theorem roundNearest_eq_of_near (b : Bool) {m : Int} (hd : 0 < d) (hlow : (2 * m - 1) * d < 2 * n)
    (hhigh : 2 * n < (2 * m + 1) * d) : roundNearest b n d = m := by
  obtain ⟨hfrom, hto⟩ := roundNearest_within_half b n hd
  have hpos : (0 : Int) < d := by exact_mod_cast hd
  have hle : roundNearest b n d < m + 1 := by nlinarith
  have hge : m < roundNearest b n d + 1 := by nlinarith
  omega

/-- What is halfway between the integers `m` and `m + 1` lies above `m`. -/
theorem ediv_of_halfway {m : Int} (hd : 0 < d) (h : 2 * n = (2 * m + 1) * d) : n / d = m :=
  (Int.ediv_eq_iff_of_pos (by exact_mod_cast hd)).mpr ⟨by nlinarith, by nlinarith⟩

theorem isTie_of_halfway {m : Int} (hd : 0 < d) (h : 2 * n = (2 * m + 1) * d) : isTie n d = true := by
  have hfloor := ediv_of_halfway hd h
  have hdiv := Int.mul_ediv_add_emod n d
  rw [hfloor] at hdiv
  have hrem : 2 * (n % d) = d := by linarith
  simp [isTie, hrem]

/-- What is strictly within one half of an integer is no tie: a tie is as far from every integer. -/
theorem not_isTie_of_near {m : Int} (hd : 0 < d) (hlow : (2 * m - 1) * d < 2 * n) (hhigh : 2 * n < (2 * m + 1) * d) :
    isTie n d = false := by
  by_contra ht
  obtain ⟨hhalf, -⟩ := (roundNearest_spec n d hd false).2 (by simpa using ht)
  have hpos : (0 : Int) < d := by exact_mod_cast hd
  have hle : n / d < m := by nlinarith
  have hge : m < n / d + 1 := by nlinarith
  omega

theorem roundNearest_of_not_tie (b b' : Bool) (h : isTie n d = false) : roundNearest b n d = roundNearest b' n d := by
  have hne : 2 * (n % d) ≠ d := by simpa [isTie] using h
  simp only [roundNearest, hne, if_false]

theorem offsetProductDen_pos (q : Quantity) : 0 < offsetProductDen q :=
  Nat.mul_pos (Nat.succ_pos _) (by decide)

theorem offsetProductDen_cast (q : Quantity) : (offsetProductDen q : Int) = q.den * 100000000 :=
  Nat.cast_mul q.den offsetFactorDen

theorem encodeOffset_of_not_tie (b b' : Bool) (h : offsetIsTie q = false) : encodeOffset b q = encodeOffset b' q :=
  congrArg toWord (roundNearest_of_not_tie b b' h)

theorem encodeOffset_out_of_range (b : Bool)
    (h : 2 * (q.num * 37449142857) < -1 * ((q.den : Int) * 100000000)
      ∨ (131071 : Int) * ((q.den : Int) * 100000000) < 2 * (q.num * 37449142857)) : encodeOffset b q = none := by
  obtain ⟨hlow, hhigh⟩ := roundNearest_within_half b (offsetProductNum q) (offsetProductDen_pos q)
  have hpos := quantity_den_pos q
  refine toWord_out_of_range (h.imp (fun hneg => ?_) fun hbig => ?_)
  all_goals
    simp only [offsetProductDen_cast, offsetProductNum, offsetFactorNum] at hlow hhigh ⊢
    nlinarith

/-- Dividing by the positive denominator keeps the bounds of a word. -/
theorem toWord_ediv_out_of_range (hd : 0 < d) (h : n < 0 ∨ 65536 * (d : Int) ≤ n) : toWord (n / d) = none := by
  have hpos : (0 : Int) < d := by exact_mod_cast hd
  refine toWord_out_of_range (h.imp (fun hneg => ?_) fun hbig => ?_)
  · exact Int.ediv_neg_of_neg_of_pos hneg hpos
  · exact Int.lt_of_lt_of_le (by decide) ((Int.le_ediv_iff_mul_le hpos).mpr hbig)

theorem encodeAltitude_of_integer {m : Nat} (h : q.num = (m : Int) * (q.den : Int)) (hm : m ≤ 65535) :
    encodeAltitude q = some (BitVec.ofNat 16 m) := by
  rw [encodeAltitude, h, if_pos (Int.mul_emod_left _ _), Int.mul_ediv_cancel _ (quantity_den_pos q).ne', toWord_nat m hm]

theorem encodeAltitude_eq_none
    (h : q.num < 0 ∨ (65536 : Int) * (q.den : Int) ≤ q.num ∨ ∀ m : Int, q.num ≠ m * (q.den : Int)) :
    encodeAltitude q = none := by
  by_cases hdvd : q.num % q.den = 0
  · have hquot : q.num = q.num / q.den * q.den := (Int.ediv_mul_cancel (Int.dvd_of_emod_eq_zero hdvd)).symm
    rw [encodeAltitude, if_pos hdvd]
    refine toWord_ediv_out_of_range (Nat.succ_pos _) ?_
    obtain hneg | hbig | hno := h
    · exact .inl hneg
    · exact .inr hbig
    · exact absurd hquot (hno _)
  · exact if_neg hdvd

theorem encodePressure_of_floor {m : Nat} (hlow : (m : Int) * 100 * (q.den : Int) ≤ q.num)
    (hhigh : q.num < ((m : Int) + 1) * 100 * (q.den : Int)) (hm : m ≤ 65535) :
    encodePressure q = some (BitVec.ofNat 16 m) := by
  have hpos := quantity_den_pos q
  have hfloor : q.num / (q.den * 100 : Nat) = m :=
    (Int.ediv_eq_iff_of_pos (by omega)).mpr ⟨by push_cast; linarith, by push_cast; linarith⟩
  rw [encodePressure, hfloor, toWord_nat m hm]

theorem encodePressure_eq_none (h : q.num < 0 ∨ (6553600 : Int) * (q.den : Int) ≤ q.num) : encodePressure q = none :=
  toWord_ediv_out_of_range (Nat.mul_pos (Nat.succ_pos _) (by decide))
    (h.imp_right fun hbig => by push_cast; linarith)

end Encodings

/-- Settles O48: the encoder is off by one half of a quantum at most, and 175 / 65536 differs from the inverse of the
encode factor by so little that over all words it stays far below the other half. -/
theorem offsetRoundTripWithinQuantum : Obligations.OffsetRoundTripWithinQuantum := by
  intro tie q w h
  obtain ⟨hmin, hmax, hword⟩ := toWord_eq_some h
  obtain ⟨hlow, hhigh⟩ := roundNearest_within_half tie (offsetProductNum q) (offsetProductDen_pos q)
  rw [← hword] at hmin hmax hlow hhigh
  have hpos := quantity_den_pos q
  have hprodMin : 0 ≤ (w.toNat : Int) * q.den := mul_nonneg hmin hpos.le
  have hprodMax : (w.toNat : Int) * q.den ≤ 65535 * q.den := mul_le_mul_of_nonneg_right hmax hpos.le
  have hunit : ((celsiusOf w).den : Int) = 65536 := rfl
  simp only [offsetProductDen_cast, offsetProductNum, offsetFactorNum] at hlow hhigh
  rw [hunit, abs_le]
  simp only [celsiusOf]
  constructor <;> linarith

/-! ### A catalogue call is the EXEC of its recipe (R210) -/

section Recipe

variable {i : Instr} {d : Desc} {dec : Decoder} {s : State} {ws : List WriteAnswer} {rs : List ReadOutcome}

theorem presentSet_eq_presentExec {op : Word} {p : Option Word}
    (h : (p.map fun w => ((⟨op, [w], 1, 0⟩ : Desc), Decoder.nothing)) = some (d, dec)) (s : State) :
    presentSet op p s = presentExec (some dec) d s := by
  cases p with
  | none => cases h
  | some w => cases h; rfl

theorem presentSet_completes (op w : Word) (hb : s.busy = false) (hw : s.writeAnswers = .ok :: ws) :
    ∃ acc, presentSet op (some w) s = .next (doneCommand s ⟨op, [w], 1, 0⟩ acc (some (.ok .nothing)) ws) :=
  presentExec_no_response (d := ⟨op, [w], 1, 0⟩) (some .nothing) hb rfl hw

theorem presentSet_not_a_word (op : Word) (hb : s.busy = false) : presentSet op none s = .refused .notAWord := by
  simp [presentSet, hb]

theorem execSetTemperatureOffset_of_not_tie {q : Quantity} (h : offsetIsTie q = false) (s : State) :
    execSetTemperatureOffset q s = presentSet opSetTemperatureOffset (encodeOffset false q) s := by
  rw [execSetTemperatureOffset, encodeOffset_of_not_tie _ false h]
  simp [h]

theorem execSetTemperatureOffset_of_tie {q : Quantity} (h : offsetIsTie q = true) (s : State) :
    execSetTemperatureOffset q s = presentSet opSetTemperatureOffset
      (encodeOffset (Config.tieRoundsUp s.freeIx) q) { s with freeIx := s.freeIx + 1 } :=
  if_pos h

/-- Without a word in either direction of a tie, tie or not, the offset is refused. -/
theorem execSetTemperatureOffset_not_a_word {q : Quantity} (h : ∀ b, encodeOffset b q = none) (hb : s.busy = false) :
    execSetTemperatureOffset q s = .refused .notAWord := by
  cases ht : offsetIsTie q with
  | true => rw [execSetTemperatureOffset_of_tie ht, h]; exact presentSet_not_a_word _ hb
  | false => rw [execSetTemperatureOffset_of_not_tie ht, h]; exact presentSet_not_a_word _ hb

theorem execPeriodicMeasurementStop_in_range {w : Nat} (hw : w ≤ 500) (s : State) :
    execPeriodicMeasurementStop w s = presentQuery opStop w .nothing s := by
  cases hb : s.busy <;> simp [execPeriodicMeasurementStop, presentQuery, presentExec, hb, hw]

/-- A call with a recipe presents the recipe's descriptor, its decode waiting. -/
theorem exec_of_recipe (h : recipe i = some (d, dec)) (s : State) : exec i s = presentExec (some dec) d s := by
  cases i with
  | csum _ | frame _ _ | valid _ | exec _ _ _ _ => cases h
  | setTemperatureOffset q =>
    cases ht : offsetIsTie q with
    | true => simp [recipe, ht] at h
    | false =>
      simp only [recipe, ht, Bool.false_eq_true, if_false] at h
      exact (execSetTemperatureOffset_of_not_tie ht s).trans (presentSet_eq_presentExec h s)
  | setAltitude q => exact presentSet_eq_presentExec h s
  | setAmbientPressure q => exact presentSet_eq_presentExec h s
  | periodicMeasurementStop w =>
    by_cases hw : w ≤ 500
    · cases (if_pos hw).symm.trans h
      exact execPeriodicMeasurementStop_in_range hw s
    · cases (if_neg hw).symm.trans h
  | saveConfig | getId | execSelfTest | reinit | getTemperatureOffset | getAltitude
  | periodicMeasurementStartLowPower | periodicMeasurementStartNormal | isDataReady => cases h; rfl

/-- A call without a response whose write succeeds completes; `ACC` is scratch. -/
theorem exec_of_recipe_no_response (h : recipe i = some (d, .nothing)) (hl : d.rlen = 0) (hb : s.busy = false)
    (hw : s.writeAnswers = .ok :: ws) :
    ∃ acc, exec i s = .next (doneCommand s d acc (some (.ok .nothing)) ws) := by
  rw [exec_of_recipe h]
  exact presentExec_no_response _ hb hl hw

/-- Without payload words the first two steps compute no checksum, so `ACC` stays. -/
theorem presentExec_no_payload (waiting : Option Decoder) {op : Word} {wait rlen : Nat} (hb : s.busy = false)
    (hm : rlen % 3 = 0) :
    presentExec waiting ⟨op, [], wait, rlen⟩ s = runPhases 6 (atWrite waiting ⟨op, [], wait, rlen⟩ s.acc s) := by
  rw [presentExec_ready hb hm, runPhases_succ_next (phaseStep_s1 rfl), runPhases_succ_next (phaseStep_s2 rfl)]
  rfl

/-- A call without argument and response whose write succeeds completes with `ACC` as it was. -/
theorem exec_of_recipe_plain {op : Word} {wait : Nat} (h : recipe i = some (⟨op, [], wait, 0⟩, .nothing))
    (hb : s.busy = false) (hw : s.writeAnswers = .ok :: ws) :
    exec i s = .next (doneCommand s ⟨op, [], wait, 0⟩ s.acc (some (.ok .nothing)) ws) := by
  rw [exec_of_recipe h, presentExec_no_payload _ hb rfl]
  exact runPhases_s3_no_response (s := atWrite _ _ s.acc s) rfl hw rfl

/-- A query whose response is complete, and valid or not validated, returns the decoded value. -/
theorem exec_of_recipe_full_read {bs : List Byte} {v : HostValue} (h : recipe i = some (d, dec)) (hm : d.rlen % 3 = 0)
    (hl : d.rlen ≠ 0) (hb : s.busy = false) (hw : s.writeAnswers = .ok :: ws) (hr : s.readAnswers = .bytes bs :: rs)
    (hfull : bs.length = d.rlen) (hvalid : s.cfgEnforce = true → rcvOf bs = calcOf bs) (hv : dec.value bs = some v) :
    ∃ acc, exec i s = .next (doneRead s d acc (.ok (.bytes bs)) (some (.ok v)) bs (listsAfter s.cfgEnforce bs)
      (.bytes bs) ws rs) := by
  have hres : fullReadResult s.cfgEnforce bs = .ok (.bytes bs) := if_neg fun hbad => hbad.2 (hvalid hbad.1)
  have happly : dec.apply (.ok (.bytes bs)) = some (.ok v) := by simp [Decoder.apply, hv]
  obtain ⟨acc, hexec⟩ := presentExec_full_read (some dec) hb hm hl hw hr hfull
  rw [hres, Option.bind_some, happly] at hexec
  exact ⟨acc, (exec_of_recipe h s).trans hexec⟩

end Recipe

/-- Settles O36: EXEC is the same presentation without the recipe that waits. -/
theorem catalogIsRecipeOverExec : Obligations.CatalogIsRecipeOverExec := by
  intro i d dec s h
  rw [exec_of_recipe h, exec_exec]
  exact presentExec_decoder d dec s

/-! ### What a catalogue call returns (R210, R224) -/

/-- A result that an EXEC asking for `n` bytes can deliver: an error, nothing, or the `n` bytes. -/
def Result.answers (n : Nat) : Result → Prop
  | .err _ => True
  | .ok .nothing => n = 0
  | .ok (.bytes bs) => bs.length = n
  | .ok (.byte _) => False
  | .ok (.words _) => False

/-- A catalogue EXEC that is not refused hangs with nothing returned, or has delivered a result and its decode. -/
theorem presentExec_returns {dec : Decoder} {d : Desc} {s t : State} (h : presentExec (some dec) d s = .next t) :
    (t.ph ≠ .idle ∧ t.res = none ∧ t.ret = none)
    ∨ ∃ r : Result, t.res = some r ∧ t.ret = dec.apply r ∧ r.answers d.rlen := by
  obtain ⟨-, -, acc, ⟨-, rfl⟩ | ⟨e, k, ws, -, rfl⟩ | ⟨ws, -, ⟨hl, rfl⟩ | ⟨-, hread⟩⟩⟩ := presentExec_next h
  · exact .inl ⟨Phase.noConfusion, rfl, rfl⟩
  · exact .inr ⟨_, rfl, rfl, trivial⟩
  · exact .inr ⟨_, rfl, rfl, hl⟩
  obtain ⟨-, rfl⟩ | ⟨o, rs, e, -, -, -, rfl⟩ | ⟨bs, rs, -, hfull, ⟨-, rfl⟩ | ⟨-, -, rfl⟩ | ⟨-, -, rfl⟩⟩ := hread
  · exact .inl ⟨Phase.noConfusion, rfl, rfl⟩
  · exact .inr ⟨_, rfl, rfl, trivial⟩
  · exact .inr ⟨_, rfl, rfl, hfull⟩
  · exact .inr ⟨_, rfl, rfl, hfull⟩
  · exact .inr ⟨_, rfl, rfl, trivial⟩

theorem Decoder.apply_eq_err_iff (dec : Decoder) (r : Result) (e : OpError) :
    dec.apply r = some (.err e) ↔ r = .err e := by
  cases r with
  | err e' => simp [Decoder.apply]
  | ok v => cases v <;> simp [Decoder.apply]

/-- Words below the length of a buffer of blocks are there to be read. -/
theorem exists_responseWord {buf : List Byte} {j : Nat} (h : 3 * j + 1 < buf.length) :
    ∃ w, responseWord buf j = some w :=
  ⟨_, memReadWord_of_bytes (List.getElem?_eq_getElem (by omega)) (List.getElem?_eq_getElem h)⟩

theorem Decoder.exists_value_of_full_response (dec : Decoder) {buf : List Byte} (h : buf.length = dec.rlen) :
    ∃ v, dec.value buf = some v := by
  cases dec with
  | nothing => exact ⟨_, rfl⟩
  | triple =>
    have hlen : buf.length = 9 := h
    obtain ⟨w0, h0⟩ := exists_responseWord (buf := buf) (j := 0) (by omega)
    obtain ⟨w1, h1⟩ := exists_responseWord (buf := buf) (j := 1) (by omega)
    obtain ⟨w2, h2⟩ := exists_responseWord (buf := buf) (j := 2) (by omega)
    exact ⟨.triple w0 w1 w2, by simp only [Decoder.value, h0, h1, h2]⟩
  | isZero | celsius | meters | ready =>
    have hlen : buf.length = 3 := h
    obtain ⟨w, hw⟩ := exists_responseWord (buf := buf) (j := 0) (by omega)
    simp [Decoder.value, hw]

theorem Decoder.eq_nothing_of_no_response {dec : Decoder} (h : dec.rlen = 0) : dec = .nothing := by
  cases dec with
  | nothing => rfl
  | triple | isZero | celsius | meters | ready => cases h

/-- The decode of a result that the recipe's EXEC can deliver is an outcome. -/
theorem Decoder.apply_ne_none (dec : Decoder) {r : Result} (h : r.answers dec.rlen) : dec.apply r ≠ none := by
  cases r with
  | err e => exact Option.some_ne_none _
  | ok v =>
    cases v with
    | nothing =>
      simp [Decoder.apply, Decoder.eq_nothing_of_no_response h]
    | bytes buf =>
      obtain ⟨v, hv⟩ := dec.exists_value_of_full_response h
      simp [Decoder.apply, hv]
    | byte b => exact h.elim
    | words ws => exact h.elim

/-- Settles O37: a delivery decodes the result, which makes an error of an error only and always makes something. -/
theorem catalogReturnsItsOutcome : Obligations.CatalogReturnsItsOutcome := by
  intro i s t hc h
  obtain ⟨hpure, -⟩ | ⟨-, d, s', hrun, -, ⟨hblock, -⟩ | ⟨-, dec, rfl, hlen⟩⟩ := exec_next i s t h
  · simp [hc] at hpure
  · simp [hc] at hblock
  obtain ⟨hbusy, hres, hret⟩ | ⟨r, hres, hret, hans⟩ := presentExec_returns hrun
  · exact ⟨fun e => by rw [hres, hret]; exact ⟨nofun, nofun⟩, fun hidle => absurd hidle hbusy⟩
  · rw [hlen] at hans
    refine ⟨fun e => ?_, fun _ => hret ▸ dec.apply_ne_none hans⟩
    rw [hres, hret, dec.apply_eq_err_iff, Option.some_inj]

/-! ### The calls without a response (R211, R214, R215, R217, R219 to R221) -/

theorem plainCommands_recipe :
    ∀ p ∈ plainCommands, recipe p.1 = some (⟨p.2.1, [], p.2.2, 0⟩, .nothing) := by decide

/-- Settles O38: the recipes of the four calls have no payload and no response. -/
theorem plainCommandsComplete : Obligations.PlainCommandsComplete :=
  fun p hp _ _ hb hw => exec_of_recipe_plain (plainCommands_recipe p hp) hb hw

/-- Settles O39: within the range of the wait the stop has a recipe like the plain commands. -/
theorem stopCompletes : Obligations.StopCompletes :=
  fun _ _ _ hrange hb hw => exec_of_recipe_plain (if_pos hrange) hb hw

/-- The start operation that a call periodic_measurement(start=true) runs (R220). -/
theorem callStartPeriodic_eq (s : State) : callStartPeriodic s
    = exec (if s.modeLowPower then .periodicMeasurementStartLowPower else .periodicMeasurementStartNormal) s := by
  cases h : s.modeLowPower <;> simp [callStartPeriodic, h, exec]

theorem recipe_start (lowPower : Bool) :
    recipe (if lowPower then .periodicMeasurementStartLowPower else .periodicMeasurementStartNormal)
      = some (⟨if lowPower then 0x21AC else 0x21B1, [], 0, 0⟩, .nothing) := by
  cases lowPower <;> rfl

/-- Settles O40: the idle block serves the call, which looks at the one flag. -/
theorem startCallChoosesOpcode : Obligations.StartCallChoosesOpcode := by
  intro s hs hidle hhost
  have hstep := (step_idle_serves hidle hhost).trans (callStartPeriodic_eq { s with host := hs })
  refine ⟨hstep, fun ws hb hw => hstep.trans ?_⟩
  exact exec_of_recipe_plain (s := { s with host := hs }) (recipe_start s.modeLowPower) hb hw

/-- Settles O41: the argument is the payload word. -/
theorem setAltitudeCompletes : Obligations.SetAltitudeCompletes := by
  intro q n s ws hq hn hb hw
  have hrecipe : recipe (.setAltitude q) = some (⟨0x2427, [BitVec.ofNat 16 n], 1, 0⟩, .nothing) := by
    simp only [recipe, encodeAltitude_of_integer hq hn, Option.map_some]
  exact exec_of_recipe_no_response hrecipe rfl hb hw

/-- Settles O42: the floor is the payload word. -/
theorem setAmbientPressureCompletes : Obligations.SetAmbientPressureCompletes := by
  intro q n s ws hlow hhigh hn hb hw
  have hrecipe : recipe (.setAmbientPressure q) = some (⟨0xE000, [BitVec.ofNat 16 n], 1, 0⟩, .nothing) := by
    simp only [recipe, encodePressure_of_floor hlow hhigh hn, Option.map_some]
  exact exec_of_recipe_no_response hrecipe rfl hb hw

/-- Settles O43: the product is no tie, and its nearest integer is the payload word. -/
theorem setTemperatureOffsetCompletes : Obligations.SetTemperatureOffsetCompletes := by
  intro q n s ws hlow hhigh hn hb hw
  rw [← offsetProductDen_cast] at hlow hhigh
  have htie : offsetIsTie q = false := not_isTie_of_near (offsetProductDen_pos q) hlow hhigh
  have hword : encodeOffset false q = some (BitVec.ofNat 16 n) :=
    (congrArg toWord (roundNearest_eq_of_near false (offsetProductDen_pos q) hlow hhigh)).trans (toWord_nat n hn)
  have hrecipe : recipe (.setTemperatureOffset q) = some (⟨0x241D, [BitVec.ofNat 16 n], 1, 0⟩, .nothing) := by
    simp [recipe, htie, hword]
  exact exec_of_recipe_no_response hrecipe rfl hb hw

/-- Settles O44: the free value picks the neighbour that the call then takes as its word, if it is one. -/
theorem temperatureTieSendsNeighbour : Obligations.TemperatureTieSendsNeighbour := by
  intro q n s ws hq hb hw
  rw [← offsetProductDen_cast] at hq
  have hd := offsetProductDen_pos q
  have htie : offsetIsTie q = true := isTie_of_halfway hd hq
  have hfloor : offsetProductNum q / offsetProductDen q = n := ediv_of_halfway hd hq
  have hexec := execSetTemperatureOffset_of_tie htie s
  refine ⟨roundNearest (Config.tieRoundsUp s.freeIx) (offsetProductNum q) (offsetProductDen q), ?_, fun hp => ?_,
    fun hp => ?_⟩
  · obtain ⟨-, hneighbour⟩ := (roundNearest_spec _ _ hd (Config.tieRoundsUp s.freeIx)).2 htie
    rwa [hfloor] at hneighbour
  · rw [encodeOffset, toWord, if_pos hp] at hexec
    obtain ⟨acc, hrun⟩ := presentSet_completes (s := { s with freeIx := s.freeIx + 1 }) _ _ hb hw
    exact ⟨acc, hexec.trans hrun⟩
  · rw [encodeOffset, toWord_out_of_range hp] at hexec
    exact hexec.trans (presentSet_not_a_word _ hb)

/-- Settles O45: none of these arguments has a word, and a set operation without its word is refused. -/
theorem notAWordRefused : Obligations.NotAWordRefused := by
  intro q s hb
  refine ⟨fun h => ?_, fun h => ?_, fun h => ?_⟩
  · exact (congrArg (presentSet _ · s) (encodeAltitude_eq_none h)).trans (presentSet_not_a_word _ hb)
  · exact (congrArg (presentSet _ · s) (encodePressure_eq_none h)).trans (presentSet_not_a_word _ hb)
  · exact execSetTemperatureOffset_not_a_word (encodeOffset_out_of_range · h) hb

/-! ### The queries (R212, R213, R216, R218, R222) -/

/-- Settles O46: the three words stand at offsets 0, 3 and 6 of the response. -/
theorem getIdCompletes : Obligations.GetIdCompletes := by
  intro s a0 a1 ac b0 b1 bc c0 c1 cc ws rs hb hw hr hsums
  have hvalid (he : s.cfgEnforce = true) :
      rcvOf [a0, a1, ac, b0, b1, bc, c0, c1, cc] = calcOf [a0, a1, ac, b0, b1, bc, c0, c1, cc] := by
    obtain ⟨ha, hb, hc⟩ := hsums he
    simp [ha, hb, hc]
  exact exec_of_recipe_full_read (i := .getId) rfl rfl (by decide) hb hw hr rfl hvalid rfl

theorem readyOf_eq (w : Word) : readyOf w = decide (w.toNat % 2048 ≠ 0) := by
  have hmask : (w &&& 0x07FF).toNat = w.toNat % 2048 := Nat.and_two_pow_sub_one_eq_mod w.toNat 11
  rw [readyOf, ← hmask, Bool.eq_iff_iff, bne_iff_ne, decide_eq_true_iff, ne_eq, ← BitVec.toNat_inj]
  rfl

/-- Each of the four queries has a recipe of its opcode and wait, whose decode of the word is the listed value. -/
theorem oneWordQueries_recipe (b0 b1 c : Byte) : ∀ p ∈ oneWordQueries (des16 b0 b1),
    ∃ dec : Decoder, recipe p.1 = some (⟨p.2.1, [], p.2.2.1, 3⟩, dec) ∧ dec.value [b0, b1, c] = some p.2.2.2 := by
  have hword : responseWord [b0, b1, c] 0 = some (des16 b0 b1) := rfl
  simp only [oneWordQueries, List.forall_mem_cons, ← readyOf_eq]
  refine ⟨⟨.isZero, rfl, ?_⟩, ⟨.celsius, rfl, ?_⟩, ⟨.meters, rfl, ?_⟩, ⟨.ready, rfl, ?_⟩, nofun⟩
  all_goals simp [Decoder.value, hword, celsiusOf, Bool.beq_eq_decide_eq]

/-- Settles O47: the response is one block, and the recipe decodes its word. -/
theorem oneWordQueriesComplete : Obligations.OneWordQueriesComplete := by
  intro b0 b1 c p hp s ws rs hb hw hr hsum
  obtain ⟨dec, hrecipe, hvalue⟩ := oneWordQueries_recipe b0 b1 c p hp
  have hvalid (he : s.cfgEnforce = true) : rcvOf [b0, b1, c] = calcOf [b0, b1, c] := by simp [hsum he]
  exact exec_of_recipe_full_read hrecipe (Nat.mod_self 3) (Nat.succ_ne_zero 2) hb hw hr rfl hvalid hvalue

/-! ### The call without a request (R223) -/

/-- Settles O49: serving soft_reset sets what the call returns. -/
theorem softResetEmitsNothing : Obligations.SoftResetEmitsNothing := fun _ _ hidle hhost => step_idle_serves hidle hhost

end Sys2Proof.Machine
end

section
/-! Proofs of the statements of 60_exceptions.md: what raising an error does, and that an operation ends with one result
or hangs in a call without an answer. -/

namespace Sys2Proof.Machine

/-! ### Raising an error (R250) -/

/-- Settles O21: a raise is the delivery of its error, and a recipe that waits hands an error on unchanged. -/
theorem raiseOnlyEndsOperation : Obligations.RaiseOnlyEndsOperation := by
  refine ⟨fun e s => ?_, fun r s => ?_⟩
  · rw [raise, deliver]
    cases s.decoder with
    | none | some dec => rfl
  · rw [deliver]
    cases s.decoder with
    | none | some dec => rfl

/-! ### One result, or a hang (R252, R64) -/

/-- The operation is over: the block is idle with a result, and no recipe waits for it. -/
def State.HasDelivered (t : State) : Prop :=
  t.ph = .idle ∧ t.busy = false ∧ t.decoder = none ∧ t.res ≠ none

/-- The operation hangs: the block is busy without a result, in the write or in the read that has no answer. -/
def State.HangsUnanswered (t : State) : Prop :=
  t.busy = true ∧ t.res = none ∧ t.ret = none
  ∧ ((t.ph = .s3 ∧ t.writeAnswers = []) ∨ (t.ph = .s6 ∧ t.readAnswers = []))

theorem deliver_hasDelivered (r : Result) (s : State) : (deliver r s).HasDelivered :=
  ⟨deliver_ph s r, deliver_busy s r, deliver_decoder s r, Option.some_ne_none r⟩

theorem raise_hasDelivered (e : OpError) (s : State) : (raise e s).HasDelivered := deliver_hasDelivered (.err e) s

theorem atWrite_hangs (dec : Option Decoder) (d : Desc) (acc : Byte) {s : State} (hw : s.writeAnswers = []) :
    (atWrite dec d acc s).HangsUnanswered :=
  ⟨rfl, rfl, rfl, .inl ⟨rfl, hw⟩⟩

theorem atRead_hangs (dec : Option Decoder) (d : Desc) (acc : Byte) (ws : List WriteAnswer) {s : State}
    (hr : s.readAnswers = []) : (atRead dec d acc ws s).HangsUnanswered :=
  ⟨rfl, rfl, rfl, .inr ⟨rfl, hr⟩⟩

/-- Of the endings of an EXEC the two without an answer hang, and all others deliver. -/
theorem presentExec_delivers_or_hangs {dec : Option Decoder} {d : Desc} {s t : State}
    (h : presentExec dec d s = .next t) : t.HasDelivered ∨ t.HangsUnanswered := by
  obtain ⟨-, -, acc, ⟨hw, rfl⟩ | ⟨e, k, ws, -, rfl⟩ | ⟨ws, -, ⟨-, rfl⟩ | ⟨-, hread⟩⟩⟩ := presentExec_next h
  · exact .inr (atWrite_hangs dec d acc hw)
  · exact .inl (raise_hasDelivered _ _)
  · exact .inl (deliver_hasDelivered _ _)
  obtain ⟨hr, rfl⟩ | ⟨o, rs, e, -, -, -, rfl⟩ | ⟨bs, rs, -, -, ⟨-, rfl⟩ | ⟨-, -, rfl⟩ | ⟨-, -, rfl⟩⟩ := hread
  · exact .inr (atRead_hangs dec d acc ws hr)
  · exact .inl (raise_hasDelivered _ _)
  · exact .inl (deliver_hasDelivered _ _)
  · exact .inl (deliver_hasDelivered _ _)
  · exact .inl (raise_hasDelivered _ _)

/-- Settles O33: an operation without transport delivers at once, and any other presents one EXEC. -/
theorem operationDeliversOrHangs : Obligations.OperationDeliversOrHangs := by
  intro i s t h
  obtain ⟨-, -, r, tx, rx, rcvs, calcs, acc, rfl⟩ | ⟨dec, d, s', hrun, -⟩ := exec_next i s t h
  · exact .inl ⟨rfl, rfl, rfl, Option.some_ne_none r⟩
  · exact presentExec_delivers_or_hangs hrun

end Sys2Proof.Machine
end

section
/-! Proofs of the statements of 70_reset_and_hazards.md: a busy block refuses every request, and when the reset of the
host is served. -/

namespace Sys2Proof.Machine

/-! ### A busy block (R275) -/

section Busy

variable {s : State}

theorem presentExec_busy (hb : s.busy = true) (dec : Option Decoder) (d : Desc) :
    presentExec dec d s = .refused .busy := if_pos hb

theorem presentQuery_busy (hb : s.busy = true) (op : Word) (wait : Nat) (dec : Decoder) :
    presentQuery op wait dec s = .refused .busy := presentExec_busy hb _ _

theorem presentSet_busy (hb : s.busy = true) (op : Word) (p : Option Word) : presentSet op p s = .refused .busy := by
  cases p with
  | some w => exact presentExec_busy hb _ _
  | none => exact if_pos hb

/-- The tie of an offset only moves the free-value counter, so either way a busy block refuses. -/
theorem execSetTemperatureOffset_busy (hb : s.busy = true) (q : Quantity) :
    execSetTemperatureOffset q s = .refused .busy := by
  cases ht : offsetIsTie q with
  | true =>
    rw [execSetTemperatureOffset_of_tie ht]
    exact presentSet_busy (s := { s with freeIx := s.freeIx + 1 }) hb _ _
  | false =>
    rw [execSetTemperatureOffset_of_not_tie ht]
    exact presentSet_busy hb _ _

theorem serveReset_busy (hb : s.busy = true) (a : BusAddr) (e : Bool) : serveReset a e s = .refused .resetWhileBusy :=
  if_pos hb

end Busy

/-- Settles O30: each operation looks at `BUSY` first, a catalogue call in what it presents. -/
theorem busyRefusesEveryOperation : Obligations.BusyRefusesEveryOperation := by
  intro i s hb
  cases i with
  | csum _ | frame _ _ | valid _ | periodicMeasurementStop _ => exact if_pos hb
  | exec op pay wait rlen => exact presentExec_busy hb _ _
  | setTemperatureOffset q => exact execSetTemperatureOffset_busy hb q
  | setAltitude q => exact presentSet_busy hb _ _
  | setAmbientPressure q => exact presentSet_busy hb _ _
  | saveConfig | getId | execSelfTest | reinit | getTemperatureOffset | getAltitude
  | periodicMeasurementStartLowPower | periodicMeasurementStartNormal | isDataReady =>
    exact presentQuery_busy hb _ _ _

/-! ### The host's reset (R270, R271, R273) -/

/-- A block that is not busy takes its reset values; the host's and the transport's side stay (log 16). -/
theorem serveReset_ready {s : State} (hb : s.busy = false) (a : BusAddr) (e : Bool) :
    serveReset a e s = .next { State.resetWith a e with
      host := s.host, writeAnswers := s.writeAnswers, readAnswers := s.readAnswers, wire := s.wire
      freeIx := s.freeIx } := by
  simp [serveReset, hb]

/-- An idle block whose host resets it serves that reset, the act consumed. -/
theorem step_idle_reset {s : State} {a : BusAddr} {e : Bool} {hs : List HostAction} (hp : s.ph = .idle)
    (hh : s.host = .reset a e :: hs) : step s = serveReset a e { s with host := hs } :=
  step_idle_serves hp hh

/-- A step of an operation in progress is a move of `PH`: configuration and host acts stay, the trace grows. -/
theorem step_in_operation_keeps {s t : State} (hp : s.ph ≠ .idle) (h : step s = .next t) :
    Claims.sameConfiguration s t ∧ t.host = s.host ∧ ∃ es, t.ev = s.ev ++ es := by
  obtain ⟨haddr, henf, hlow, hsingle, hhost, -, htrace⟩ := phaseStep_keeps ((step_in_operation hp).symm.trans h)
  exact ⟨⟨haddr, henf, hlow, hsingle⟩, hhost, htrace⟩

/-- Settles O52: an idle block serves the reset, by `BUSY`; an operation in progress makes its own move instead. -/
theorem hostResetLatchesConfiguration : Obligations.HostResetLatchesConfiguration := by
  refine ⟨fun s hs a e hhost => ⟨fun hidle hb => ?_, fun hidle hb => ?_, fun hop t => step_in_operation_keeps hop⟩,
    fun a e s hb => serveReset_busy hb a e⟩
  · have hserved := (step_idle_reset hidle hhost).trans (serveReset_ready (s := { s with host := hs }) hb a e)
    exact ⟨_, hserved, rfl, rfl, rfl, rfl, rfl, rfl, rfl, rfl, rfl, rfl, rfl, rfl, rfl, rfl⟩
  · exact (step_idle_reset hidle hhost).trans (serveReset_busy (s := { s with host := hs }) hb a e)

end Sys2Proof.Machine
end
